-- ==== Sys2Proof/Word.lean ====
section
/-! DEFINITION. The word types of the FX8 and the type of its sparse maps. -/

namespace Sys2Proof

/-- A byte of memory (R5). -/
abbrev Byte := BitVec 8

/-- A 64-bit register, word or pointer (R11). -/
abbrev Word := BitVec 64

/-- A physical address of 52 bits (R14). -/
abbrev PAddr := BitVec 52

/-- A vector register of 64 bytes (R40). -/
abbrev VReg := BitVec 512

/-- A sparse map: pairs of a key and a value, keys strictly rising, no value equal to the default of its key. -/
abbrev SMap (α : Type) := List (Nat × α)

end Sys2Proof
end

