-- ==== Sys2Proof/Config.lean ====
section
/-! DEFINITION. The free values: what the spec leaves open. None of them has a body, so no proof can see a value of
one (log entry 7). -/

namespace Sys2Proof.Config

/-- A word the spec leaves open, one for each value of the counter `State.freeCtr` (R76, R163, R361, R368; log entry 7). -/
opaque freeWord : Nat → BitVec 64

/-- The rounding of an approximation (R323) whose enclosure of 640 bits does not decide it: function number, type and
operand encoding give a word whose bit 0 says which of the two nearest values it is. R323 fixes it; the model does not compute it (log
entry 9). -/
opaque approxUndecided : Nat → Nat → BitVec 64 → BitVec 64

/-- Digests that SPDM serves and the spec gives no number for (R439): 1 the boot ROM, 2 the management firmware (log entry 7). -/
opaque digest : Nat → BitVec 384

/-- Signature by the device key over a measurement (R439): the spec names the key and not its algorithm (log entry 7). -/
opaque sign : List Byte → List Byte

/-- Whether the sill die of a failed stack answers accesses to its control block (R434, log entry 81). -/
opaque sillAnswers : Nat → Bool

/-- SHA-384 of a sequence of bytes (R209, R439): the spec names it and does not define it (log entry 7). -/
opaque sha384 : List Byte → BitVec 384

/-- What the 128-byte header of a microcode image gives (R209), whose layout the spec does not state: the image's length, its security
version number, its compatibility word, and whether it is well formed (log entry 66). -/
opaque imgLen : List Byte → Nat
opaque imgSvn : List Byte → BitVec 32
opaque imgCompat : List Byte → BitVec 64
opaque imgWell : List Byte → Bool

/-- Whether the signature of an image verifies against the fused key, the fused minimum of the security version, and whether an image with
one compatibility word accepts the hold-area layout that an image with another has written (R209, log entry 66). -/
opaque sigOk : List Byte → Bool
opaque minSvn : BitVec 32
opaque layoutOk : BitVec 64 → BitVec 64 → Bool

end Sys2Proof.Config
end

