-- ==== Sys2Proof/Syntax.lean ====
section
/-! DEFINITION. The syntax: one constructor of `Instr` for each row of the opcode table. A slot operation carries
the fields of its word with its prefixes taken in (R243); a step without an encoding carries the unit it happens in
and what the outside world decides about it. -/

namespace Sys2Proof

/-- The seven slots, in slot order (R236). -/
inductive Slot where
  | A | B | V | W | M | L | X
  deriving DecidableEq, Repr

/-- The five slot classes, each with an opcode space of its own (R249). -/
inductive SlotClass where
  | scalar | vector | matrix | memory | aux
  deriving DecidableEq, Repr

/-- Global index of a core: 256 DIEID + 64 CLID + COREID (R17). -/
abbrev CoreN := BitVec 11
/-- Context number (R2). -/
abbrev CtxN := BitVec 2
/-- Compute die (R1); also the towpath link of that die (R431). -/
abbrev DieN := BitVec 3
/-- Cluster of the module: 4 DIEID + CLID (R2). -/
abbrev ClusterN := BitVec 5
/-- Sill die, that is, HBM stack (R14). -/
abbrev SillN := BitVec 4
/-- Copy engine of the module: 16 DIEID + 4 CLID + e (R352). -/
abbrev EngineN := BitVec 7
/-- Weator link (R430). -/
abbrev WeatorN := Fin 10
/-- Scalar register number. -/
abbrev Reg := BitVec 6
/-- Predicate register number. -/
abbrev PReg := BitVec 4
/-- Vector register number. -/
abbrev VNum := BitVec 10

/-- Who writes or reads a control-space register (R211, R352); the management firmware (R431). -/
inductive Master where
  | ctx (n : CoreN) (c : CtxN)
  | hart (d : DieN)
  | engine (e : EngineN)
  | host (rid : BitVec 16)
  | firmware
  deriving DecidableEq, Repr

/-- What the home answers an atomic (R136); a LOST atomic may have been applied. -/
inductive AtomStatus where
  | ok | refused | appliedErr | lost (applied : Bool)
  deriving DecidableEq, Repr

/-- Host AtomicOps (R427). -/
inductive HostAtom where
  | fetchAdd | swap | cas
  deriving DecidableEq, Repr

/-- Where a host AtomicOp goes: an offset of BAR0 or of BAR2 (R427, R428). -/
inductive HostOff where
  | bar0 (off : BitVec 42) | bar2 (off : BitVec 42)
  deriving DecidableEq, Repr

/-- Where a double error strikes (R80): state of the context, with or without a checkpoint copy; a line of the core's local cache; a line
of another memory array. -/
inductive ErrSite where
  | reg (copied : Bool) | cache (pa : PAddr) | array (pa : PAddr)
  deriving DecidableEq, Repr

/-- A host write as it arrives, with or without the Relaxed Ordering attribute, or the requests that wait tried again (R120). -/
inductive HostWr where
  | ordered (bytes : List Byte) | relaxed (bytes : List Byte) | waiting
  deriving DecidableEq, Repr

/-- Units that train at bring-up (R434). -/
inductive TrainUnit where
  | stack (s : SillN) | weator (l : WeatorN) | towpath (l : DieN)
  deriving DecidableEq, Repr

/-- What arrives from the host on the PCI Express link (R429). -/
inductive LinkFlit where
  | flit (stream : BitVec 3) (slot : BitVec 1) (seq : Nat)
  | ack (stream : BitVec 3) (seq : Nat)
  | bad (stream : BitVec 3) (seq : Nat)
  deriving DecidableEq, Repr

/-- Fields of format VR (R252); `vcnt` is the count register of a VCNT prefix (R243). -/
structure VOp where
  ty : BitVec 4
  mreg : BitVec 3
  mu : Bool
  mz : Bool
  vd : VNum
  va : VNum
  vb : VNum
  vc : VNum
  se : BitVec 3
  fn : BitVec 5
  vcnt : Option Reg
  deriving DecidableEq, Repr

/-- Fields of format MX (R254), formats as an FMT prefix leaves them. -/
structure MOp where
  fa : BitVec 4
  fb : BitVec 4
  pr : Bool
  d : BitVec 2
  ta : BitVec 3
  tb : BitVec 3
  ka : BitVec 4
  kb : BitVec 4
  se : BitVec 4
  fn : BitVec 12
  aux : BitVec 16
  vcnt : Option Reg
  deriving DecidableEq, Repr

/-- Fields of format LM (R256); `disp` is the displacement as a 64-bit value (R239, R243). -/
structure LOp where
  ty : BitVec 4
  ord : BitVec 2
  scope : BitVec 3
  d : BitVec 10
  b : Reg
  x : Reg
  mreg : BitVec 3
  mu : Bool
  se : BitVec 2
  fn : BitVec 4
  disp : Word
  vcnt : Option Reg
  deriving DecidableEq, Repr

/-- Fields of format XR (R258). -/
structure XOp where
  v : VNum
  t : BitVec 4
  idx : BitVec 5
  s : Reg
  deriving DecidableEq, Repr

/-- One constructor for each row of the opcode table. -/
inductive Instr where
  -- scalar class (R251)
  /-- `ADD`. R275 -/
  | add (d a b : Reg)
  /-- `SUB`. R275 -/
  | sub (d a b : Reg)
  /-- `MUL`. R275 -/
  | mul (d a b : Reg)
  /-- `MULH`. R275 -/
  | mulh (d a b : Reg)
  /-- `MULHU`. R275 -/
  | mulhu (d a b : Reg)
  /-- `DIV`. R275 -/
  | div (d a b : Reg)
  /-- `DIVU`. R275 -/
  | divu (d a b : Reg)
  /-- `REM`. R275 -/
  | rem (d a b : Reg)
  /-- `REMU`. R275 -/
  | remu (d a b : Reg)
  /-- `AND`. R275 -/
  | and (d a b : Reg)
  /-- `OR`. R275 -/
  | or (d a b : Reg)
  /-- `XOR`. R275 -/
  | xor (d a b : Reg)
  /-- `ANDN`. R275 -/
  | andn (d a b : Reg)
  /-- `SHL`. R275 -/
  | shl (d a b : Reg)
  /-- `SHR`. R275 -/
  | shr (d a b : Reg)
  /-- `SAR`. R275 -/
  | sar (d a b : Reg)
  /-- `MIN`. R275 -/
  | min (d a b : Reg)
  /-- `MAX`. R275 -/
  | max (d a b : Reg)
  /-- `MINU`. R275 -/
  | minu (d a b : Reg)
  /-- `MAXU`. R275 -/
  | maxu (d a b : Reg)
  /-- `CLZ`. R275 -/
  | clz (d a : Reg)
  /-- `POPC`. R275 -/
  | popc (d a : Reg)
  /-- `EXT`. R277: the width is `w` + 1. -/
  | ext (d a b : Reg) (w : BitVec 6) (sgn : Bool)
  /-- `SEL`. R277 -/
  | sel (d a b : Reg) (p : PReg) (neg : Bool)
  /-- `ADDS`. R277 -/
  | adds (d a b : Reg) (uns : Bool)
  /-- `SETKEY`. R277 -/
  | setkey (d a b : Reg)
  /-- `ADDI`. R278; the immediate sign-extended to the 38 bits of XIMM (R243) -/
  | addi (d a : Reg) (imm : BitVec 38)
  /-- `ANDI`. R278; the immediate sign-extended to the 38 bits of XIMM (R243) -/
  | andi (d a : Reg) (imm : BitVec 38)
  /-- `ORI`. R278; the immediate sign-extended to the 38 bits of XIMM (R243) -/
  | ori (d a : Reg) (imm : BitVec 38)
  /-- `XORI`. R278; the immediate sign-extended to the 38 bits of XIMM (R243) -/
  | xori (d a : Reg) (imm : BitVec 38)
  /-- `SHLI`. R278 -/
  | shli (d a : Reg) (sh : BitVec 6)
  /-- `SHRI`. R278 -/
  | shri (d a : Reg) (sh : BitVec 6)
  /-- `SARI`. R278 -/
  | sari (d a : Reg) (sh : BitVec 6)
  /-- `MOVI`. R278 -/
  | movi (d : Reg) (imm : BitVec 38)
  /-- `LIH`. R278 -/
  | lih (d a : Reg) (imm : BitVec 38)
  /-- `CMP`. R279 -/
  | cmp (p : PReg) (cc : BitVec 4) (a b : Reg)
  /-- `CMPI`. R279; the immediate sign-extended to the 36 bits of XIMM -/
  | cmpi (p : PReg) (cc : BitVec 4) (a : Reg) (imm : BitVec 36)
  /-- `PAND`. R280 -/
  | pand (p a : PReg) (na : Bool) (b : PReg) (nb : Bool)
  /-- `POR`. R280 -/
  | por (p a : PReg) (na : Bool) (b : PReg) (nb : Bool)
  /-- `PXOR`. R280 -/
  | pxor (p a : PReg) (na : Bool) (b : PReg) (nb : Bool)
  /-- `PANDN`. R280 -/
  | pandn (p a : PReg) (na : Bool) (b : PReg) (nb : Bool)
  /-- `CSRR`. R288 -/
  | csrr (d : Reg) (num : BitVec 13)
  /-- `CSRW`. R288 -/
  | csrw (num : BitVec 13) (a : Reg)
  /-- `CSRS`. R288 -/
  | csrs (num : BitVec 13) (a : Reg)
  /-- `CSRC`. R288 -/
  | csrc (num : BitVec 13) (a : Reg)
  /-- `LCW`. R262 -/
  | lcw (n : BitVec 3) (a : Reg)
  /-- `LCR`. R262 -/
  | lcr (d : Reg) (n : BitVec 3)
  /-- `BR`. R282; the offset in words, sign-extended to the 45 bits of XIMM -/
  | br (p : PReg) (neg : Bool) (off : BitVec 45)
  /-- `CALL`. R282; the offset in words, sign-extended to the 45 bits of XIMM -/
  | call (p : PReg) (neg : Bool) (off : BitVec 45)
  /-- `JR`. R283 -/
  | jr (a : Reg)
  /-- `CALLR`. R283 -/
  | callr (a : Reg)
  /-- `LOOPN`. R263 -/
  | loopn (v : VNum) (n : BitVec 3)
  /-- `IFENCE`. R285: `n` + 1 lines -/
  | ifence (a : Reg) (n : BitVec 10)
  /-- `ISWAP_STAGE`. R286: `n` + 1 lines -/
  | iswapStage (a : Reg) (n : BitVec 10)
  /-- `TRAP`. R292 -/
  | trap (n : BitVec 8)
  /-- `SUSPEND`. R294 -/
  | suspend (c : BitVec 4) (a v : Reg)
  -- vector class (R253)
  /-- `VADD`. R311 -/
  | vadd (o : VOp)
  /-- `VSUB`. R311 -/
  | vsub (o : VOp)
  /-- `VMUL`. R311 -/
  | vmul (o : VOp)
  /-- `VFMA`. R311 -/
  | vfma (o : VOp)
  /-- `VFMS`. R311 -/
  | vfms (o : VOp)
  /-- `VMIN`. R311 -/
  | vmin (o : VOp)
  /-- `VMAX`. R311 -/
  | vmax (o : VOp)
  /-- `VABS`. R311 -/
  | vabs (o : VOp)
  /-- `VNEG`. R311 -/
  | vneg (o : VOp)
  /-- `VADDS`. R311 -/
  | vadds (o : VOp)
  /-- `VSUBS`. R311 -/
  | vsubs (o : VOp)
  /-- `VMOV`. R311 -/
  | vmov (o : VOp)
  /-- `VMULH`. R311 -/
  | vmulh (o : VOp)
  /-- `VAND`. R313 -/
  | vand (o : VOp)
  /-- `VOR`. R313 -/
  | vor (o : VOp)
  /-- `VXOR`. R313 -/
  | vxor (o : VOp)
  /-- `VANDN`. R313 -/
  | vandn (o : VOp)
  /-- `VSHL`. R313 -/
  | vshl (o : VOp)
  /-- `VSHR`. R313 -/
  | vshr (o : VOp)
  /-- `VSAR`. R313 -/
  | vsar (o : VOp)
  /-- `VCMP`. R314 -/
  | vcmp (o : VOp)
  /-- `VSEL`. R315 -/
  | vsel (o : VOp)
  /-- `MAND`. R316 -/
  | mand (o : VOp)
  /-- `MOR`. R316 -/
  | mor (o : VOp)
  /-- `MXOR`. R316 -/
  | mxor (o : VOp)
  /-- `MANDN`. R316 -/
  | mandn (o : VOp)
  /-- `MPOP`. R316 -/
  | mpop (o : VOp)
  /-- `VCVT`. R317 -/
  | vcvt (o : VOp)
  /-- `VQNT`. R319 -/
  | vqnt (o : VOp)
  /-- `VDQNT`. R320 -/
  | vdqnt (o : VOp)
  /-- `VREDSUM`. R321 -/
  | vredsum (o : VOp)
  /-- `VREDMAX`. R321 -/
  | vredmax (o : VOp)
  /-- `VREDMIN`. R321 -/
  | vredmin (o : VOp)
  /-- `VPERM`. R322 -/
  | vperm (o : VOp)
  /-- `VBCAST`. R322 -/
  | vbcast (o : VOp)
  /-- `VBCAST_SCALAR`. R322 -/
  | vbcastScalar (o : VOp)
  /-- `VLANE`. R322 -/
  | vlane (o : VOp)
  /-- `VMOVS`. R322 -/
  | vmovs (o : VOp)
  /-- `VMOVL`. R322 -/
  | vmovl (o : VOp)
  /-- `VSLIDE`. R322 -/
  | vslide (o : VOp)
  /-- `VZIP`. R322 -/
  | vzip (o : VOp)
  /-- `VUNZIP`. R322 -/
  | vunzip (o : VOp)
  /-- `VRCP`. R323 -/
  | vrcp (o : VOp)
  /-- `VRSQRT`. R323 -/
  | vrsqrt (o : VOp)
  /-- `VEXP2`. R323 -/
  | vexp2 (o : VOp)
  /-- `VLOG2`. R323 -/
  | vlog2 (o : VOp)
  /-- `VTANH`. R323 -/
  | vtanh (o : VOp)
  /-- `VRNG`. R325 -/
  | vrng (o : VOp)
  -- matrix class (R255)
  /-- `MMA`. R383 -/
  | mma (o : MOp)
  /-- `MMAS`. R384 -/
  | mmas (o : MOp)
  /-- `TADD`. R385 -/
  | tadd (o : MOp)
  /-- `TSCL`. R385 -/
  | tscl (o : MOp)
  /-- `TCVT`. R371 -/
  | tcvt (o : MOp)
  /-- `TQNT`. R372 -/
  | tqnt (o : MOp)
  /-- `TCMPR`. R374 -/
  | tcmpr (o : MOp)
  /-- `TDCMP`. R374 -/
  | tdcmp (o : MOp)
  /-- `TMOV`. R374 -/
  | tmov (o : MOp)
  /-- `MKAT`. R389 -/
  | mkat (fmt : BitVec 4) (seed : Reg) (sig : Word)
  -- memory-queue class (R257)
  /-- `LD`. R330 -/
  | ld (o : LOp)
  /-- `ST`. R330 -/
  | st (o : LOp)
  /-- `VLD`. R331 -/
  | vld (o : LOp)
  /-- `VST`. R331 -/
  | vst (o : LOp)
  /-- `VLDS`. R331 -/
  | vlds (o : LOp)
  /-- `VSTS`. R331 -/
  | vsts (o : LOp)
  /-- `VGATH`. R332 -/
  | vgath (o : LOp)
  /-- `VSCAT`. R332 -/
  | vscat (o : LOp)
  /-- `LDFAR`. R334 -/
  | ldfar (o : LOp)
  /-- `VLDFAR`. R334 -/
  | vldfar (o : LOp)
  /-- `QMARK`. R335 -/
  | qmark (o : LOp)
  /-- `FENCE`. R335 -/
  | fence (o : LOp)
  /-- `ATOM`. R336 -/
  | atom (o : LOp)
  /-- `ARRIVE`. R341 -/
  | arrive (o : LOp)
  /-- `WAITP`. R342 -/
  | waitp (o : LOp)
  /-- `BERTH`. R343 -/
  | berth (o : LOp)
  /-- `OWNX`. R344 -/
  | ownx (o : LOp)
  /-- `MONARM`. R345 -/
  | monarm (o : LOp)
  /-- `MONWAIT`. R347 -/
  | monwait (o : LOp)
  /-- `PREF`. R348 -/
  | pref (o : LOp)
  /-- `CWB`. R349 -/
  | cwb (o : LOp)
  /-- `CINV`. R349 -/
  | cinv (o : LOp)
  /-- `CINV_ALL`. R349 -/
  | cinvAll (o : LOp)
  /-- `TAGSET`. R350 -/
  | tagset (o : LOp)
  /-- `TAGRD`. R351 -/
  | tagrd (o : LOp)
  /-- `TLD`. R362 -/
  | tld (o : LOp)
  /-- `TST`. R364 -/
  | tst (o : LOp)
  /-- `TCFG`. R360 -/
  | tcfg (o : LOp)
  /-- `TSAVE`. R376 -/
  | tsave (o : LOp)
  /-- `TREST`. R376 -/
  | trest (o : LOp)
  /-- `TSEND`. R393 -/
  | tsend (o : LOp)
  /-- `TRIGGER`. R300 -/
  | trigger (o : LOp)
  /-- `SPAWN`. R301 -/
  | spawn (o : LOp)
  /-- `LAUNCH`. R302 -/
  | launch (o : LOp)
  /-- `GSSNEXT`. R303 -/
  | gssnext (o : LOp)
  -- auxiliary class (R259)
  /-- `SLD`. R368 -/
  | sld (o : XOp)
  /-- `TRW`. R365 -/
  | trw (o : XOp)
  /-- `TRR`. R365 -/
  | trr (o : XOp)
  /-- `TCW`. R365 -/
  | tcw (o : XOp)
  /-- `TCR`. R365 -/
  | tcr (o : XOp)
  /-- `TZERO`. R366 -/
  | tzero (o : XOp)
  /-- `BRD`. R386 -/
  | brd (o : XOp)
  /-- `BWR`. R386 -/
  | bwr (o : XOp)
  /-- `BCHK`. R386 -/
  | bchk (o : XOp)
  /-- `BCLR`. R386 -/
  | bclr (o : XOp)
  /-- `SGRD`. R387 -/
  | sgrd (o : XOp)
  /-- `SGCLR`. R388 -/
  | sgclr (o : XOp)
  /-- `KWR`. R369 -/
  | kwr (o : XOp)
  /-- `KRD`. R369 -/
  | krd (o : XOp)
  -- steps without an encoding, with their unit
  /-- `REGISTER_DOUBLE_ERROR`. R80: a double error in a register file of a context, or in a memory array. -/
  | registerDoubleError (n : CoreN) (c : CtxN) (site : ErrSite)
  /-- `ARBITER_SERVE`. R181: the arbiter serves its oldest request; `agree` says whether its two results agree. -/
  | arbiterServe (cl : ClusterN) (agree : Bool)
  /-- `VERIFCTL_WRITE`. R185: a write of VERIFCTL. -/
  | verifctlWrite (n : CoreN) (v : Word)
  /-- `RESULT_ARRIVAL`. R197: the in-flight result with this program-order number arrives. -/
  | resultArrival (n : CoreN) (c : CtxN) (seq : Nat)
  /-- `PARK_WAKE`. R30: a write to the monitored table line wakes every piece parked on it. -/
  | parkWake (cl : ClusterN) (line : PAddr)
  /-- `WALKINV_PAGE`. R31: operation 001. -/
  | walkinvPage (d : DieN) (asid : BitVec 16) (vpage : BitVec 36)
  /-- `WALKINV_ASID`. R31: operation 010. -/
  | walkinvAsid (d : DieN) (asid : BitVec 16)
  /-- `WALKINV_ALL`. R31: operation 011. -/
  | walkinvAll (d : DieN)
  /-- `FAULTTAIL_WRITE`. R32: a write of FAULTTAIL. -/
  | faulttailWrite (d : DieN) (v : Word)
  /-- `VIOLTAIL_WRITE`. R94: a write of VIOLTAIL. -/
  | violtailWrite (d : DieN) (v : Word)
  /-- `LEASE_CHECK_WAIT`. R39: a write of LEASEREQ with mode WAIT. -/
  | leaseCheckWait (d : DieN) (base : BitVec 40)
  /-- `LEASE_CHECK_REVOKE`. R39: a write of LEASEREQ with mode REVOKE. -/
  | leaseCheckRevoke (d : DieN) (base : BitVec 40)
  /-- `STORE_PERFORM`. R96: the store-queue entry at index `k` is performed; `bad` counts the attempts of a TSEND whose refold differs (R76). -/
  | storePerform (n : CoreN) (c : CtxN) (k : Nat) (bad : BitVec 3)
  /-- `LOAD_PERFORM`. R96: the load-queue entry at index `k` is performed. -/
  | loadPerform (n : CoreN) (c : CtxN) (k : Nat)
  /-- `ATOMIC_PERFORM`. R136: the atomic at index `k` of the store queue is answered with `status`. -/
  | atomicPerform (n : CoreN) (c : CtxN) (k : Nat) (status : AtomStatus)
  /-- `REPLAY_REWALK`. R128: a woken replay-queue entry walks again. -/
  | replayRewalk (n : CoreN) (c : CtxN) (k : Nat)
  /-- `REPLAY_REWALK_TIMER`. R128: an unmonitored replay-queue entry walks again. -/
  | replayRewalkTimer (n : CoreN) (c : CtxN) (k : Nat)
  /-- `BANKMODE_SWITCH`. R53: a context writes BANKMODEn. -/
  | bankmodeSwitch (n : CoreN) (c : CtxN) (b : BitVec 4) (v : Word)
  /-- `BANK_SWITCH_COMPLETE`. R53: the bank has drained and takes its new mode. -/
  | bankSwitchComplete (n : CoreN) (b : BitVec 4)
  /-- `LLCWIN_RESIZE`. R61: a write of LLCWIN. -/
  | llcwinResize (s : SillN) (v : Word)
  /-- `LLCWIN_RESIZE_DONE`. R61: the window change has finished. -/
  | llcwinResizeDone (s : SillN)
  /-- `FIFO_PUSH_ACCEPT`. R51: a push waiting at a FIFO bank is accepted. -/
  | fifoPushAccept (n : CoreN) (b : BitVec 4)
  /-- `COPY`. R353: the engine's next descriptor, a COPY. -/
  | copy (e : EngineN)
  /-- `COPYSC`. R76: the engine's next descriptor, a COPYSC; `bad` counts the attempts at its first image whose refold differs. -/
  | copysc (e : EngineN) (bad : BitVec 3)
  /-- `MIGRATE`. R34: the engine's next descriptor, a MIGRATE. -/
  | migrate (e : EngineN)
  /-- `MCAST`. R353: the engine's next descriptor, an MCAST. -/
  | mcast (e : EngineN)
  /-- `CETAIL_WRITE`. R352: a write of CETAIL. -/
  | cetailWrite (e : EngineN) (w : Master) (v : Word)
  /-- `CESTAT_RESUME`. R352: CESTAT.STOPPED is cleared. -/
  | cestatResume (e : EngineN) (w : Master)
  /-- `CESTAT_SKIP`. R352: SKIP is written while stopped. -/
  | cestatSkip (e : EngineN) (w : Master)
  /-- `OWNERSHIP_WORD0_WRITE`. R91: a store to word 0 of an ownership entry. -/
  | ownershipWord0Write (d : DieN) (i : BitVec 16) (v : Word)
  /-- `OWNERSHIP_WORD1_WRITE`. R91: a store to word 1 of an ownership entry. -/
  | ownershipWord1Write (d : DieN) (i : BitVec 16) (v : Word)
  /-- `BARRIER_OBJECT_WRITE`. R339: a store to a barrier object. -/
  | barrierObjectWrite (d : DieN) (i : BitVec 16) (v : Word)
  /-- `PHASE_WATCH_RETRY`. R192: the phase watch of the record at `r` is placed again. -/
  | phaseWatchRetry (d : DieN) (r : PAddr)
  /-- `REFRESH_ROW`. R81: a refresh activation reads a line that has `symbols` erroneous symbols (at most four). -/
  | refreshRow (s : SillN) (line : BitVec 30) (symbols : BitVec 3)
  /-- `ECC_COUNT_CLEAR`. R82: a write of ECCCTL. -/
  | eccCountClear (s : SillN) (v : Word)
  /-- `DISPATCH`. R211: a DISPATCH command. -/
  | dispatch (n : CoreN) (c : CtxN) (pa : PAddr)
  /-- `PRE_EMPT`. R211: a PRE-EMPT command. -/
  | preEmpt (n : CoreN) (c : CtxN) (resno : BitVec 16)
  /-- `FORCE`. R211: a FORCE command. -/
  | force (n : CoreN) (c : CtxN) (resno : BitVec 16)
  /-- `KILL`. R230: a KILL command. -/
  | kill (n : CoreN) (c : CtxN) (resno : BitVec 16)
  /-- `RESUME`. R211: a RESUME command. -/
  | resume (n : CoreN) (c : CtxN) (resno : BitVec 16)
  /-- `SLOTS`. R211: a SLOTS command. -/
  | slots (n : CoreN) (arg : PAddr)
  /-- `BANKS`. R211: a BANKS command. -/
  | banks (n : CoreN) (arg : PAddr)
  /-- `DISTEVT_READ`. R211: a read of DISTEVT. -/
  | disteventRead (d : DieN) (w : Master)
  /-- `DISTMBOXRD_READ`. R207: a read of DISTMBOXRD. -/
  | distmboxrdRead (d : DieN) (w : Master)
  /-- `MBOX_PLACE`. R207: the die acts on a PLACE word. -/
  | mboxPlace (d : DieN) (src : DieN) (r : PAddr) (arg : BitVec 6)
  /-- `MBOX_PLACED`. R207: the die acts on a PLACED word. -/
  | mboxPlaced (d : DieN) (src : DieN) (r : PAddr) (arg : BitVec 6)
  /-- `MBOX_NOROOM`. R207: the die acts on a NOROOM word. -/
  | mboxNoroom (d : DieN) (src : DieN) (r : PAddr) (arg : BitVec 6)
  /-- `MBOX_PREEMPT`. R207: the die acts on a PREEMPT word. -/
  | mboxPreempt (d : DieN) (src : DieN) (r : PAddr) (arg : BitVec 6)
  /-- `MBOX_FORCE`. R207: the die acts on a FORCE word. -/
  | mboxForce (d : DieN) (src : DieN) (r : PAddr) (arg : BitVec 6)
  /-- `MBOX_KILL`. R207: the die acts on a KILL word. -/
  | mboxKill (d : DieN) (src : DieN) (r : PAddr) (arg : BitVec 6)
  /-- `MBOX_ENDED`. R207: the die acts on an ENDED word. -/
  | mboxEnded (d : DieN) (src : DieN) (r : PAddr) (arg : BitVec 6)
  /-- `DISTCTL_QUIESCE`. R210: QUIESCE is written 1. -/
  | distctlQuiesce (d : DieN) (v : Word)
  /-- `DISTCTL_LOAD`. R210: LOAD is written; the image at DISTIMG is judged. -/
  | distctlLoad (d : DieN) (w : Master) (v : Word)
  /-- `QUEUE_WAKE`. R215: the QCB monitor of the queue wakes. -/
  | queueWake (q : BitVec 12)
  /-- `RCOND_WAKE`. R192: the condition of the waiting record at `r` is tested. -/
  | rcondWake (d : DieN) (r : PAddr)
  /-- `DLOGTAIL_WRITE`. R233: a write of DLOGTAIL. -/
  | dlogtailWrite (d : DieN) (v : Word)
  /-- `DBG_GO`. R416: GO is written 1, with STEP as given. -/
  | dbgGo (n : CoreN) (c : CtxN) (step : Bool)
  /-- `TRACE_SESSION_OPEN`. R420: TRCCTL is written with EN 1. -/
  | traceSessionOpen (n : CoreN) (c : CtxN) (v : Word)
  /-- `TRACE_SESSION_CLOSE`. R422: TRCCTL is written with EN 0. -/
  | traceSessionClose (n : CoreN) (c : CtxN) (v : Word)
  /-- `SPDM_GET_MEASUREMENTS`. R439: a measurement request is served. -/
  | spdmGetMeasurements (idx : BitVec 8)
  /-- `HOST_WRITE`. R120, R428: a posted write of the host through BAR0 or BAR2. -/
  | hostWrite (rid : BitVec 16) (bar2 : Bool) (off : BitVec 42) (w : HostWr)
  /-- `HOST_READ`. R120, R428: a read of the host through BAR0 or BAR2. -/
  | hostRead (rid : BitVec 16) (bar2 : Bool) (off : BitVec 42) (len : Nat)
  /-- `HOST_ATOMICOP`. R427: a host AtomicOp on 32 (`wide` 0), 64 (1) or 128 bits (2). -/
  | hostAtomicop (rid : BitVec 16) (off : HostOff) (op : HostAtom) (wide : BitVec 2) (v cmp : Word)
  /-- `IDE_KEY_ROLLOVER`. R429: the transmitter of a stream moves to `slot`. -/
  | ideKeyRollover (stream : BitVec 3) (slot : BitVec 1)
  /-- `WEATOR_FLIT`. R133, R430: a flit is received on a Weator link. -/
  | weatorFlit (l : WeatorN) (dir : Bool) (hdr : Word) (payload : BitVec 512)
  /-- `WEATOR_LINK_DOWN`. R134: a link fails to deliver a flit within 64 replays. -/
  | weatorLinkDown (l : WeatorN)
  /-- `TOWPATH_FLIT`. R135: a flit is received on a towpath link. -/
  | towpathFlit (l : DieN) (hdr : Word) (payload : BitVec 512)
  /-- `TOWPATH_LINK_DOWN`. R434: a towpath link goes down or fails to train. -/
  | towpathLinkDown (l : DieN)
  /-- `POWER_ON_RESET`. R433: power-on reset; `ok` says whether the boot ROM verifies the firmware. -/
  | powerOnReset (ok : Bool)
  /-- `STACK_TRAINED`. R433: a stack is trained and tag-initialised. -/
  | stackTrained (s : SillN)
  /-- `WEATOR_LINK_TRAINED`. R433: a Weator link finishes training. -/
  | weatorLinkTrained (l : WeatorN)
  /-- `TOWPATH_LINK_TRAINED`. R433: a towpath link finishes training. -/
  | towpathLinkTrained (l : DieN)
  /-- `TRAINING_TIMEOUT`. R434: a unit has not trained within 500 ms. -/
  | trainingTimeout (u : TrainUnit)
  /-- `MODID_WRITE`. R432: a write of MODID. -/
  | modidWrite (v : Word)
  /-- `PWRCAP_WRITE`. R432: a write of PWRCAP. -/
  | pwrcapWrite (v : Word)
  /-- `POWER_SAMPLE`. R437: the controller samples power and temperature. -/
  | powerSample (watts : BitVec 16) (tmax : BitVec 8)
  /-- `THERMAL_TRIP`. R438: a junction reaches `deg` degrees. -/
  | thermalTrip (deg : BitVec 8)
  /-- `REGISTER_WRITE`. R7: an 8-byte write of a control-space register. -/
  | registerWrite (w : Master) (pa : PAddr) (v : Word)
  /-- `HOST_LINK_FLIT`. R429: a flit, acknowledgement or bad-flit report arrives from the host. -/
  | hostLinkFlit (f : LinkFlit)
  -- scalar class, no fields
  /-- `RET`. R283 -/
  | ret
  /-- `IFENCE_ALL`. R285 -/
  | ifenceAll
  /-- `ISWAP`. R286 -/
  | iswap
  /-- `ERET`. R293 -/
  | eret
  /-- `SUSPEND_DORM`. R295 -/
  | suspendDorm
  /-- `YIELD`. R296 -/
  | yield
  /-- `RETIRE`. R297 -/
  | retire
  -- steps without an encoding, of the focus core, context or die
  /-- `BUNDLE_ISSUE`. R240, R199: the focus core takes one core cycle; the selector picks a context and its next bundle issues once. -/
  | bundleIssue
  /-- `COMMIT_OVERFLOW`. R406: 256 core cycles have passed after the implicit-checkpoint mark. -/
  | commitOverflow
  /-- `CLEANCNT_WRAP`. R184: CLEANCNT has reached 2^20. -/
  | cleancntWrap
  /-- `MKAT_OUTCOME`. R187: the outcome of the oldest known-answer run. -/
  | mkatOutcome
  /-- `INSTRUCTION_FETCH_FILL`. R284: the fetch miss of the context is filled. -/
  | instructionFetchFill
  /-- `PAGE_WALK`. R29: the cluster walker walks for the context's oldest untranslated piece. -/
  | pageWalk
  /-- `INVALIDATION_COMPLETE`. R127: the invalidation has been applied. -/
  | invalidationComplete
  /-- `LEASETO_EXPIRY`. R34: LEASETO core cycles have passed since the revoke of the holder. -/
  | leasetoExpiry
  /-- `BERTH_ARRIVAL`. R66: the oldest message sent to the core is judged by its banks. -/
  | berthArrival
  /-- `BERTH_START`. R66: the oldest arrival starts the lowest dormant context. -/
  | berthStart
  /-- `BARRIER_ARRIVAL_APPLY`. R116: the context's oldest ARRIVE is applied. -/
  | barrierArrivalApply
  /-- `WAITP_RETRY`. R342: a WAITP answered retry is sent again. -/
  | waitpRetry
  /-- `WAITP_TIMEOUT`. R203: WAITCTL.CYCLES have passed. -/
  | waitpTimeout
  /-- `MONWAIT_TIMEOUT`. R347: the timeout of the MONWAIT has passed. -/
  | monwaitTimeout
  /-- `RESIDENCY_END`. R132: a residency whose queues have drained ends. -/
  | residencyEnd
  /-- `DIST_QUIESCED`. R210: the harts have written the hold area. -/
  | distQuiesced
  /-- `DISTCTL_RUN`. R210: RUN is written 1. -/
  | distctlRun
  /-- `POLL_SWEEP`. R208: the unmonitored lines are read by polling. -/
  | pollSweep
  /-- `RECORD_OFFER`. R217: the distributor offers its best ready record. -/
  | recordOffer
  /-- `LAUNCH_RELEASE`. R226: a launch waiting on an exclusive graph starts. -/
  | launchRelease
  /-- `WATCHDOG_PREEMPT`. R229: the watchdog timer reaches W. -/
  | watchdogPreempt
  /-- `WATCHDOG_FORCE`. R229: the watchdog timer reaches W + G. -/
  | watchdogForce
  /-- `WATCHDOG_KILL`. R229: the watchdog timer reaches W + 2G. -/
  | watchdogKill
  /-- `DBG_HALT`. R415: HALT is written 1. -/
  | dbgHalt
  /-- `DBG_DUMP`. R419: DUMP is written 1. -/
  | dbgDump
  /-- `DBG_DUMP_DONE`. R419: every dumped byte has been performed. -/
  | dbgDumpDone
  /-- `DBG_LOAD`. R419: LOAD is written 1. -/
  | dbgLoad
  /-- `SAMPLE_TICK`. R425: SAMPCTL.PERIOD core cycles have passed. -/
  | sampleTick
  /-- `DIE_READY`. R433: a die's clusters pass self-test. -/
  | dieReady
  /-- `FULL_SERVICE_TRANSITION`. R436: a die moves to full service. -/
  | fullServiceTransition
  /-- `PCI_EXPRESS_LINK_TRAINED`. R433: the host link finishes training. -/
  | pciExpressLinkTrained
  deriving DecidableEq, Repr

end Sys2Proof
end

