-- ==== Sys2Proof/WellFormed.lean ====
section
/-! DEFINITION. Well-formed instructions: the field rules that R244 item 3 refers to, as each description of
chapters 10 to 15 states them. What depends on the state (budgets, tile shapes, loops) is checked at the issue. -/

namespace Sys2Proof

/-- The CSR numbers of R289. -/
def csrListed (n : BitVec 13) : Bool :=
  n ≤ 7 || (0x10 ≤ n && n ≤ 0x17) || (0x20 ≤ n && n ≤ 0x24) || (0x30 ≤ n && n ≤ 0x36) || (0x40 ≤ n && n ≤ 0x4F)

/-- Integer types (R247). -/
def tyInt (t : BitVec 4) : Bool := t < 8
/-- Float types (R247). -/
def tyFloat (t : BitVec 4) : Bool := t == 8 || t == 9 || t == 10
/-- Every type but the MX types. -/
def tyLane (t : BitVec 4) : Bool := t ≤ 10
/-- MX types. -/
def tyMx (t : BitVec 4) : Bool := t == 11 || t == 12 || t == 13
/-- Tile types (R361). -/
def tyTile (t : BitVec 4) : Bool := t == 0 || t == 2 || (8 ≤ t && t ≤ 13)

/-- Lane width in bytes (R304). -/
def laneBytes (t : BitVec 4) : Nat :=
  if t == 0 || t == 4 then 1 else if t == 1 || t == 5 || t == 10 then 2
  else if t == 2 || t == 6 || t == 8 then 4 else 8
/-- Lanes of a vector register (R304). -/
def laneCount (t : BitVec 4) : Nat := 64 / laneBytes t

namespace VOp
/-- R305: with MU 0 the mask fields are zero. -/
def maskOk (o : VOp) : Bool := o.mu || (o.mreg == 0 && !o.mz)
/-- No mask at all. -/
def noMask (o : VOp) : Bool := !o.mu && o.mreg == 0 && !o.mz
/-- SE bits that may not be set. -/
def seOff (o : VOp) (m : BitVec 3) : Bool := o.se &&& m == 0
/-- R307: FN[0] selects the scalar form, FN[4:1] is zero. -/
def scalarForm (o : VOp) : Bool := o.fn == 0 || (o.fn == 1 && o.vb < 64)
/-- Two-source elementwise operation with a scalar form and no third source. -/
def bin (o : VOp) (ty : Bool) : Bool := ty && o.maskOk && o.vc == 0 && o.scalarForm
/-- Three-source elementwise operation. -/
def tern (o : VOp) (ty : Bool) : Bool := ty && o.maskOk && o.scalarForm
/-- One-source elementwise operation. -/
def un (o : VOp) (ty : Bool) : Bool := ty && o.maskOk && o.vb == 0 && o.vc == 0 && o.fn == 0 && o.seOff 1
/-- Mask logic (R316). -/
def mlogic (o : VOp) : Bool :=
  o.ty == 0 && o.noMask && o.se == 0 && o.vd < 8 && o.va < 8 && o.vb < 8 && o.vc == 0 && o.fn == 0 && o.vcnt.isNone
/-- Source type of vcvt, vqnt and vdqnt. -/
def srcTy (o : VOp) : BitVec 4 := o.vb.extractLsb' 0 4
/-- Part of vcvt. -/
def part (o : VOp) : Nat := (o.vb.extractLsb' 4 3).toNat
/-- R317, R318. -/
def cvt (o : VOp) : Bool :=
  let u := o.srcTy
  let a := laneBytes o.ty
  let b := laneBytes u
  tyLane o.ty && tyLane u && o.maskOk && o.vb.extractLsb' 7 3 == 0 && o.part < max a b / min a b
    && o.fn &&& 7 ≤ 3 && (o.fn &&& 8 == 0 || (tyInt o.ty && tyInt u && a < b)) && o.fn &&& 16 == 0
    && o.vc == 0 && o.seOff 1
/-- R321. -/
def red (o : VOp) : Bool :=
  tyLane o.ty && o.maskOk && !o.mz && o.fn == 0 && o.vb == 0 && o.vc == 0 && o.seOff 1
/-- R323. -/
def approx (o : VOp) : Bool :=
  (o.ty == 8 || o.ty == 10) && o.maskOk && o.fn == 0 && o.vb == 0 && o.vc == 0 && o.seOff 1
end VOp

namespace MOp
/-- R381: the permitted pairs of operand formats. -/
def pairOk (a b : BitVec 4) : Bool :=
  (a == 10 && b == 10) || (a == b && tyMx a) || (a == 11 && b == 13) || (a == 13 && b == 11)
    || (a == 12 && b == 13) || (a == 13 && b == 12)
/-- R382: scale mode of one operand. -/
def scaleOk (f : BitVec 4) (sm : BitVec 12) (k : BitVec 4) : Bool :=
  if f == 10 then sm == 0 && k == 0 else sm ≤ 1 || (sm == 2 && k == 0)
/-- R380 to R382, common part of mma and mmas. -/
def mmaOk (o : MOp) : Bool :=
  pairOk o.fa o.fb && scaleOk o.fa (o.fn &&& 3) o.ka && scaleOk o.fb ((o.fn >>> 2) &&& 3) o.kb
/-- Metadata tile of AUX[2:0]. -/
def meta3 (o : MOp) : BitVec 3 := o.aux.extractLsb' 0 3
/-- R370: fields that tcvt, tqnt, tcmpr, tdcmp and tmov leave zero. -/
def moveZ (o : MOp) : Bool := !o.pr && o.kb == 0
end MOp

namespace LOp
/-- D holds a scalar. -/
def dS (o : LOp) : Bool := o.d < 64
/-- No mask. -/
def noMask (o : LOp) : Bool := !o.mu && o.mreg == 0
/-- R305 without MZ. -/
def maskOk (o : LOp) : Bool := o.mu || o.mreg == 0
/-- Plain order and scope. -/
def plain (o : LOp) : Bool := o.ord == 0 && o.scope == 0
/-- R248: one extra order code besides plain. -/
def ordOk (o : LOp) (c : BitVec 2) : Bool := o.plain || (o.ord == c && o.scope ≤ 4)
/-- TY, ORD, SCOPE, MK, MU and VCNT unused. -/
def bare (o : LOp) : Bool := o.ty == 0 && o.plain && o.noMask && o.vcnt.isNone
/-- SE[0] may not be set. -/
def se0 (o : LOp) : Bool := o.se &&& 1 == 0
/-- Only B, DISP and SE[1] used (R341, R360, R376). -/
def addrOnly (o : LOp) : Bool := o.bare && o.d == 0 && o.x == 0 && o.fn == 0 && o.se0
/-- Tile code of a tile load or store (R361). -/
def tcode (o : LOp) : Nat := o.d.toNat
/-- Types and code of tst and tsend (R364, R393). -/
def tstOk (o : LOp) : Bool :=
  o.d < 12 && o.plain && o.noMask && (if o.d < 8 then tyTile o.ty else (o.ty == 8 || o.ty == 9))
    && (o.fn &&& 1 == 0 || (o.vcnt.isNone && !(8 ≤ o.d && o.ty == 9)))
end LOp

/-- Field rules of one instruction. The steps without an encoding have none. -/
def Instr.wf : Instr → Bool
  | .cmp _ cc _ _ => cc ≤ 10
  | .cmpi _ cc _ _ => cc ≤ 10
  | .csrr _ n => csrListed n
  | .csrw n _ => csrListed n
  | .csrs n _ => csrListed n
  | .csrc n _ => csrListed n
  | .lcw n _ => n < 6
  | .lcr _ n => n < 6
  | .loopn _ n => n != 0 && n != 7
  | .suspend c a v => c < 4 && (c != 0 || (a == 0 && v == 0))
  | .vadd o | .vsub o | .vmul o | .vmin o | .vmax o => o.bin (tyLane o.ty)
  | .vfma o | .vfms o => o.tern (tyLane o.ty)
  | .vabs o | .vneg o | .vmov o => o.un (tyLane o.ty)
  | .vadds o | .vsubs o | .vmulh o => o.bin (tyInt o.ty)
  | .vand o | .vor o | .vxor o | .vandn o => o.bin (tyLane o.ty)
  | .vshl o | .vshr o | .vsar o => o.bin (tyInt o.ty)
  | .vcmp o =>
    let cc := o.fn &&& 15
    tyLane o.ty && o.maskOk && o.vc == 0 && o.vd < 8 && (cc ≤ 5 || (cc == 6 && tyFloat o.ty))
      && (o.fn &&& 16 == 0 || o.vb < 64)
  | .vsel o => tyLane o.ty && !o.mu && !o.mz && o.fn == 0 && o.vc == 0
  | .mand o | .mor o | .mxor o | .mandn o => o.mlogic
  | .mpop o => tyLane o.ty && o.noMask && o.se == 0 && o.vd < 64 && o.va < 8 && o.vb == 0 && o.vc == 0 && o.fn == 0
      && o.vcnt.isNone
  | .vcvt o => o.cvt
  | .vqnt o => tyMx o.ty && (o.srcTy == 8 || o.srcTy == 10) && o.vb < 16 && o.noMask && o.seOff 1 && o.fn == 0
      && o.vc == 0 && o.vcnt.isNone
  | .vdqnt o => (o.ty == 8 || o.ty == 10) && tyMx o.srcTy && o.vb < 16 && o.noMask && o.seOff 1 && o.fn == 0
      && o.vc == 0 && o.vcnt.isNone
  | .vredsum o | .vredmax o | .vredmin o => o.red
  | .vperm o => tyLane o.ty && o.maskOk && o.fn == 0 && o.vc == 0
  | .vbcast o => tyLane o.ty && o.maskOk && o.fn == 0 && o.vc == 0 && o.vb.toNat < laneCount o.ty && o.seOff 1
  | .vbcastScalar o => tyLane o.ty && o.maskOk && o.fn == 1 && o.vc == 0 && o.vb < 64 && o.va == 0 && o.seOff 2
  | .vlane o => tyInt o.ty && o.maskOk && o.fn == 0 && o.vc == 0 && o.vb < 64 && o.va == 0 && o.seOff 2
  | .vmovs o => tyLane o.ty && o.noMask && o.fn == 0 && o.vc == 0 && o.vd < 64 && o.vb.toNat < laneCount o.ty
      && o.seOff 5 && o.vcnt.isNone
  | .vmovl o => tyLane o.ty && o.noMask && o.fn == 0 && o.vc == 0 && o.va < 64 && o.vb.toNat < laneCount o.ty
      && o.seOff 3 && o.vcnt.isNone
  | .vslide o => tyLane o.ty && o.maskOk && o.vc == 0 && o.fn.toNat ≤ laneCount o.ty - 1
  | .vzip o | .vunzip o => tyLane o.ty && o.maskOk && o.vc == 0 && o.fn ≤ 1
  | .vrcp o | .vrsqrt o | .vexp2 o | .vlog2 o | .vtanh o => o.approx
  | .vrng o => o.maskOk && o.vc == 0 && o.va < 64 && o.vb < 64 && o.seOff 3
      && ((o.fn == 0 && tyInt o.ty) || (o.fn == 1 && tyFloat o.ty))
  | .mma o => o.mmaOk && o.fn < 16 && o.aux == 0
  | .mmas o => o.mmaOk && o.fn < 64 && o.aux < 8 && o.meta3 != o.ta && o.meta3 != o.tb
  | .tadd o => o.fa == 0 && o.fb == 0 && o.ka == 0 && o.kb == 0 && o.fn == 0 && o.ta < 4 && o.tb < 4 && o.aux == 0
  | .tscl o => o.fa == 0 && o.fb == 0 && o.ka == 0 && o.kb == 0 && o.fn == 0 && o.ta < 4 && o.tb == 0 && o.aux < 64
  | .tcvt o => (o.fa == 8 || o.fa == 10) && o.fb == 0 && o.moveZ && o.ka == 0 && o.tb == 0 && o.fn == 0 && o.aux == 0
      && o.se &&& 3 == 0
  | .tqnt o => tyMx o.fa && (o.fb == 8 || o.fb == 10) && o.moveZ && o.d == 0 && o.fn == 0 && o.aux == 0
      && o.se &&& 8 == 0 && o.vcnt.isNone
  | .tcmpr o => (o.fa == 8 || o.fa == 10 || tyMx o.fa) && o.fb == 0 && o.moveZ && o.d == 0 && o.fn < 4 && o.aux < 8
      && o.meta3 != o.ta && (tyMx o.fa || (o.ka == 0 && o.se &&& 1 == 0)) && o.se &&& 8 == 0 && o.vcnt.isNone
  | .tdcmp o => (o.fa == 8 || o.fa == 10 || tyMx o.fa) && o.fb == 0 && o.moveZ && o.d == 0 && o.ka == 0 && o.fn < 4
      && o.aux < 8 && o.meta3 != o.ta && o.se &&& 9 == 0 && o.vcnt.isNone
  | .tmov o => o.fa == 0 && o.fb == 0 && o.moveZ && o.d == 0 && o.ka == 0 && o.fn == 0 && o.aux == 0
      && o.se &&& 9 == 0 && o.vcnt.isNone
  | .mkat f _ _ => tyMx f
  | .ld o => tyInt o.ty && o.ordOk 1 && o.dS && o.noMask && o.fn == 0 && o.vcnt.isNone
  | .st o => tyInt o.ty && o.ordOk 2 && o.dS && o.noMask && o.fn == 0 && o.vcnt.isNone
  | .vld o | .vst o | .vlds o | .vsts o => tyLane o.ty && o.plain && o.maskOk && o.fn == 0
  | .vgath o | .vscat o => tyInt o.ty && o.plain && o.maskOk && o.fn == 0 && o.x == 0
  | .ldfar o => tyInt o.ty && o.plain && o.dS && o.noMask && o.fn ≤ 7 && o.vcnt.isNone
  | .vldfar o => tyLane o.ty && o.plain && o.maskOk && o.fn ≤ 7
  | .qmark o => o.addrOnly && o.b == 0 && o.disp == 0 && o.se == 0
  | .fence o => o.ord != 0 && o.scope ≤ 4 && o.ty == 0 && o.noMask && o.vcnt.isNone && o.d == 0 && o.x == 0
      && o.b == 0 && o.fn == 0 && o.disp == 0 && o.se == 0
  | .atom o => tyLane o.ty && (o.plain || (o.ord != 0 && o.scope ≤ 4)) && o.dS && o.noMask && o.fn ≤ 8 && o.se0
      && o.vcnt.isNone
  | .arrive o => o.addrOnly
  | .waitp o => o.bare && o.dS && o.x == 0 && o.fn == 0
  | .berth o => o.bare && o.x ≤ 61 && o.fn == 0
  | .ownx o => o.bare && o.dS && o.x == 0 && o.fn == 0
  | .monarm o => tyInt o.ty && o.ordOk 1 && o.dS && o.noMask && o.fn == 0 && o.vcnt.isNone
  | .monwait o => o.bare && o.dS && o.b == 0 && o.disp == 0 && o.fn == 0 && o.se &&& 2 == 0
  | .pref o => o.bare && o.d == 0 && o.fn &&& 3 != 3 && o.fn &&& 8 == 0 && o.se0
  | .cwb o => o.bare && o.d == 0 && o.fn == 0 && o.se0
  | .cinv o => o.bare && o.d == 0 && o.fn == 0 && o.se0
  | .cinvAll o => o.bare && o.d == 0 && o.fn == 1 && o.b == 0 && o.x == 0 && o.disp == 0 && o.se == 0
  | .tagset o => o.bare && o.dS && o.x == 0
  | .tagrd o => o.bare && o.dS && o.x == 0 && o.fn == 0
  | .tld o => o.d < 8 && tyTile o.ty && o.fn &&& 12 == 0 && o.ordOk 1
      && (if o.fn &&& 2 == 0 then o.noMask else o.mu) && (o.fn &&& 1 == 0 || o.vcnt.isNone)
  | .tst o => o.tstOk && o.fn ≤ 1
  | .tcfg o | .tsave o | .trest o => o.addrOnly
  | .tsend o => o.tstOk && o.fn &&& 8 == 0 && (o.fn &&& 6 == 0 || (1 ≤ o.x && o.x ≤ 60))
  | .trigger o => o.addrOnly && o.b == 0 && o.disp == 0 && o.se == 0
  | .spawn o | .launch o => o.bare && o.dS && o.x == 0 && o.fn == 0 && o.se == 0
  | .gssnext o => o.bare && o.dS && o.fn == 0 && o.se == 0 && (o.d == 0 || o.d != o.x.setWidth 10)
  | .sld o => o.idx ≤ 4
  | .trw o | .trr o | .tcw o | .tcr o => o.t < 12
  | .tzero o => o.t < 12 && o.v == 0 && o.idx == 0 && o.s == 0
  | .brd o | .bwr o => o.t < 12 && o.v == 0 && o.idx == 0
  | .bchk o => 8 ≤ o.t && o.t < 12 && o.idx < 16 && o.v == 0 && o.s == 0
  | .bclr o => o.t < 12 && o.v == 0 && o.idx == 0 && o.s == 0
  | .sgrd o => 8 ≤ o.t && o.t < 12 && o.idx ≤ 1 && o.v == 0
  | .sgclr o => 8 ≤ o.t && o.t < 12 && o.idx == 0 && o.v == 0 && o.s == 0
  | .kwr o | .krd o => o.idx == 0 && o.s == 0
  | _ => true

/-- The slot class an operation belongs to; none for a step without an encoding (R249). -/
def Instr.slotClass : Instr → Option SlotClass
  | .add _ _ _ => some .scalar
  | .sub _ _ _ => some .scalar
  | .mul _ _ _ => some .scalar
  | .mulh _ _ _ => some .scalar
  | .mulhu _ _ _ => some .scalar
  | .div _ _ _ => some .scalar
  | .divu _ _ _ => some .scalar
  | .rem _ _ _ => some .scalar
  | .remu _ _ _ => some .scalar
  | .and _ _ _ => some .scalar
  | .or _ _ _ => some .scalar
  | .xor _ _ _ => some .scalar
  | .andn _ _ _ => some .scalar
  | .shl _ _ _ => some .scalar
  | .shr _ _ _ => some .scalar
  | .sar _ _ _ => some .scalar
  | .min _ _ _ => some .scalar
  | .max _ _ _ => some .scalar
  | .minu _ _ _ => some .scalar
  | .maxu _ _ _ => some .scalar
  | .clz _ _ => some .scalar
  | .popc _ _ => some .scalar
  | .ext _ _ _ _ _ => some .scalar
  | .sel _ _ _ _ _ => some .scalar
  | .adds _ _ _ _ => some .scalar
  | .setkey _ _ _ => some .scalar
  | .addi _ _ _ => some .scalar
  | .andi _ _ _ => some .scalar
  | .ori _ _ _ => some .scalar
  | .xori _ _ _ => some .scalar
  | .shli _ _ _ => some .scalar
  | .shri _ _ _ => some .scalar
  | .sari _ _ _ => some .scalar
  | .movi _ _ => some .scalar
  | .lih _ _ _ => some .scalar
  | .cmp _ _ _ _ => some .scalar
  | .cmpi _ _ _ _ => some .scalar
  | .pand _ _ _ _ _ => some .scalar
  | .por _ _ _ _ _ => some .scalar
  | .pxor _ _ _ _ _ => some .scalar
  | .pandn _ _ _ _ _ => some .scalar
  | .csrr _ _ => some .scalar
  | .csrw _ _ => some .scalar
  | .csrs _ _ => some .scalar
  | .csrc _ _ => some .scalar
  | .lcw _ _ => some .scalar
  | .lcr _ _ => some .scalar
  | .br _ _ _ => some .scalar
  | .call _ _ _ => some .scalar
  | .jr _ => some .scalar
  | .callr _ => some .scalar
  | .loopn _ _ => some .scalar
  | .ifence _ _ => some .scalar
  | .iswapStage _ _ => some .scalar
  | .trap _ => some .scalar
  | .suspend _ _ _ => some .scalar
  | .vadd _ => some .vector
  | .vsub _ => some .vector
  | .vmul _ => some .vector
  | .vfma _ => some .vector
  | .vfms _ => some .vector
  | .vmin _ => some .vector
  | .vmax _ => some .vector
  | .vabs _ => some .vector
  | .vneg _ => some .vector
  | .vadds _ => some .vector
  | .vsubs _ => some .vector
  | .vmov _ => some .vector
  | .vmulh _ => some .vector
  | .vand _ => some .vector
  | .vor _ => some .vector
  | .vxor _ => some .vector
  | .vandn _ => some .vector
  | .vshl _ => some .vector
  | .vshr _ => some .vector
  | .vsar _ => some .vector
  | .vcmp _ => some .vector
  | .vsel _ => some .vector
  | .mand _ => some .vector
  | .mor _ => some .vector
  | .mxor _ => some .vector
  | .mandn _ => some .vector
  | .mpop _ => some .vector
  | .vcvt _ => some .vector
  | .vqnt _ => some .vector
  | .vdqnt _ => some .vector
  | .vredsum _ => some .vector
  | .vredmax _ => some .vector
  | .vredmin _ => some .vector
  | .vperm _ => some .vector
  | .vbcast _ => some .vector
  | .vbcastScalar _ => some .vector
  | .vlane _ => some .vector
  | .vmovs _ => some .vector
  | .vmovl _ => some .vector
  | .vslide _ => some .vector
  | .vzip _ => some .vector
  | .vunzip _ => some .vector
  | .vrcp _ => some .vector
  | .vrsqrt _ => some .vector
  | .vexp2 _ => some .vector
  | .vlog2 _ => some .vector
  | .vtanh _ => some .vector
  | .vrng _ => some .vector
  | .mma _ => some .matrix
  | .mmas _ => some .matrix
  | .tadd _ => some .matrix
  | .tscl _ => some .matrix
  | .tcvt _ => some .matrix
  | .tqnt _ => some .matrix
  | .tcmpr _ => some .matrix
  | .tdcmp _ => some .matrix
  | .tmov _ => some .matrix
  | .mkat _ _ _ => some .matrix
  | .ld _ => some .memory
  | .st _ => some .memory
  | .vld _ => some .memory
  | .vst _ => some .memory
  | .vlds _ => some .memory
  | .vsts _ => some .memory
  | .vgath _ => some .memory
  | .vscat _ => some .memory
  | .ldfar _ => some .memory
  | .vldfar _ => some .memory
  | .qmark _ => some .memory
  | .fence _ => some .memory
  | .atom _ => some .memory
  | .arrive _ => some .memory
  | .waitp _ => some .memory
  | .berth _ => some .memory
  | .ownx _ => some .memory
  | .monarm _ => some .memory
  | .monwait _ => some .memory
  | .pref _ => some .memory
  | .cwb _ => some .memory
  | .cinv _ => some .memory
  | .cinvAll _ => some .memory
  | .tagset _ => some .memory
  | .tagrd _ => some .memory
  | .tld _ => some .memory
  | .tst _ => some .memory
  | .tcfg _ => some .memory
  | .tsave _ => some .memory
  | .trest _ => some .memory
  | .tsend _ => some .memory
  | .trigger _ => some .memory
  | .spawn _ => some .memory
  | .launch _ => some .memory
  | .gssnext _ => some .memory
  | .sld _ => some .aux
  | .trw _ => some .aux
  | .trr _ => some .aux
  | .tcw _ => some .aux
  | .tcr _ => some .aux
  | .tzero _ => some .aux
  | .brd _ => some .aux
  | .bwr _ => some .aux
  | .bchk _ => some .aux
  | .bclr _ => some .aux
  | .sgrd _ => some .aux
  | .sgclr _ => some .aux
  | .kwr _ => some .aux
  | .krd _ => some .aux
  | .ret => some .scalar
  | .ifenceAll => some .scalar
  | .iswap => some .scalar
  | .eret => some .scalar
  | .suspendDorm => some .scalar
  | .yield => some .scalar
  | .retire => some .scalar
  | _ => none

end Sys2Proof
end

