-- ==== Sys2Proof/Machine/Num.lean ====
section
/-! DEFINITION. Number formats and exact arithmetic (chapter 06): values as exact dyadic numbers, one rounding at the
end, the bound primitives, MXINT scales, the random generator and the reduction tree. -/

namespace Sys2Proof.Machine

/-- An exact value: NaN, an infinity, or (-1)^neg * m * 2^e; a zero keeps its sign (R151, R152). -/
inductive Val where
  | nan
  | inf (neg : Bool)
  | num (neg : Bool) (m : Nat) (e : Int)
  deriving DecidableEq, Repr

/-- A binary format: precision and exponent bits (R145). -/
structure Fmt where
  p : Nat
  eb : Nat
  deriving DecidableEq, Repr

def fmt32 : Fmt := ⟨24, 8⟩
def fmt64 : Fmt := ⟨53, 11⟩
def fmtB16 : Fmt := ⟨8, 8⟩
/-- R323: binary32 with twelve significand bits. -/
def fmt32r12 : Fmt := ⟨12, 8⟩

namespace Fmt
def bias (f : Fmt) : Int := 2 ^ (f.eb - 1) - 1
/-- Exponent of the quantum of the subnormals. -/
def qmin (f : Fmt) : Int := 1 - f.bias - (f.p - 1)
/-- Encoding of infinity without its sign. -/
def infCode (f : Fmt) : Nat := (2 ^ f.eb - 1) * 2 ^ (f.p - 1)
/-- Canonical NaN (R145). -/
def nanCode (f : Fmt) : Nat := f.infCode + 2 ^ (f.p - 2)
/-- Position of the sign bit. -/
def signBit (f : Fmt) : Nat := 2 ^ (f.eb + f.p - 1)
/-- Least exponent of R151 `emax`. -/
def emin (f : Fmt) : Int := 1 - f.bias
end Fmt

/-- Length of a number in bits. -/
def bitLen (m : Nat) : Nat := if m = 0 then 0 else m.log2 + 1

/-- val(f, x) of R151 for a binary format. -/
def valOf (f : Fmt) (x : Nat) : Val :=
  let neg := x / f.signBit % 2 = 1
  let ex := x / 2 ^ (f.p - 1) % 2 ^ f.eb
  let fr := x % 2 ^ (f.p - 1)
  if ex = 2 ^ f.eb - 1 then (if fr = 0 then .inf neg else .nan)
  else if ex = 0 then .num neg fr f.qmin
  else .num neg (2 ^ (f.p - 1) + fr) (f.qmin + ex - 1)

/-- Rounding modes of R317. -/
inductive Rm where
  | rne | rz | ru | rd
  deriving DecidableEq, Repr

/-- A magnitude m / 2^sh rounded to an integer. -/
def roundShr (rm : Rm) (neg : Bool) (m sh : Nat) : Nat :=
  let q := m / 2 ^ sh
  let r := m % 2 ^ sh
  match rm with
  | .rne => if 2 * r > 2 ^ sh || (2 * r = 2 ^ sh && q % 2 = 1) then q + 1 else q
  | .rz => q
  | .ru => if r ≠ 0 && !neg then q + 1 else q
  | .rd => if r ≠ 0 && neg then q + 1 else q

/-- Encoding of a finite magnitude in a format (R152; R318 for the directed roundings). -/
def encMag (f : Fmt) (rm : Rm) (neg : Bool) (m : Nat) (e : Int) : Nat :=
  if m = 0 then 0 else
  let q : Int := max (e + bitLen m - f.p) f.qmin
  let sig := if q ≤ e then m * 2 ^ (e - q).toNat else roundShr rm neg m (q - e).toNat
  let code := (q - f.qmin).toNat * 2 ^ (f.p - 1) + sig
  if code < f.infCode then code
  else match rm, neg with
    | .rne, _ | .ru, false | .rd, true => f.infCode
    | _, _ => f.infCode - 1

/-- Encoding of a value in a format. -/
def encVal (f : Fmt) (rm : Rm) : Val → Nat
  | .nan => f.nanCode
  | .inf neg => (if neg then f.signBit else 0) + f.infCode
  | .num neg m e => (if neg then f.signBit else 0) + encMag f rm neg m e

/-- rne(v, f) of R152. -/
def rne (f : Fmt) (v : Val) : Nat := encVal f .rne v

/-- Exact comparison of magnitudes m * 2^e. -/
def magLe (m : Nat) (e : Int) (m' : Nat) (e' : Int) : Bool :=
  let l := min e e'
  m * 2 ^ (e - l).toNat ≤ m' * 2 ^ (e' - l).toNat

/-- A finite value as an integer multiple of 2^l. -/
def scaled (neg : Bool) (m : Nat) (e l : Int) : Int :=
  let x : Int := (m * 2 ^ (e - l).toNat : Nat)
  if neg then -x else x

/-- a < b for values that are not NaN; -0 = +0. -/
def Val.lt : Val → Val → Bool
  | .inf a, .inf b => a && !b
  | .inf a, .num _ _ _ => a
  | .num _ _ _, .inf b => !b
  | .num n m e, .num n' m' e' => scaled n m e (min e e') < scaled n' m' e' (min e e')
  | _, _ => false
/-- a = b for values that are not NaN; -0 = +0. -/
def Val.eqv : Val → Val → Bool
  | .inf a, .inf b => a == b
  | .num n m e, .num n' m' e' => scaled n m e (min e e') == scaled n' m' e' (min e e')
  | _, _ => false
def Val.isNan : Val → Bool
  | .nan => true
  | _ => false
def Val.finite : Val → Bool
  | .num _ _ _ => true
  | _ => false
def Val.isNeg : Val → Bool
  | .nan => false
  | .inf n => n
  | .num n _ _ => n
def Val.neg : Val → Val
  | .nan => .nan
  | .inf n => .inf !n
  | .num n m e => .num (!n) m e
def Val.abs : Val → Val
  | .nan => .nan
  | .inf _ => .inf false
  | .num _ m e => .num false m e

/-- Exact product (R154, R312). -/
def vmul : Val → Val → Val
  | .nan, _ | _, .nan => .nan
  | .inf a, .inf b => .inf (a != b)
  | .inf a, .num n m _ | .num n m _, .inf a => if m = 0 then .nan else .inf (a != n)
  | .num n m e, .num n' m' e' => .num (n != n') (m * m') (e + e')

/-- Least exponent of the finite values of a list. -/
def minExp : List Val → Int → Int
  | [], a => a
  | .num _ _ e :: t, a => minExp t (min e a)
  | _ :: t, a => minExp t a

/-- Exact sum of a list of values (R152, R154). -/
def vsum (l : List Val) : Val :=
  if l.any Val.isNan then .nan
  else match l.any (· == .inf false), l.any (· == .inf true) with
    | true, true => .nan
    | true, false => .inf false
    | false, true => .inf true
    | false, false =>
      let e := minExp l 0
      let t : Int := l.foldl (fun a v => match v with | .num n m x => a + scaled n m x e | _ => a) 0
      if t = 0 then .num (!l.isEmpty && l.all fun v => match v with | .num n m _ => n && m == 0 | _ => false) 0 0
      else .num (t < 0) t.natAbs e

/-- Width and format of a float lane type. -/
def laneFmt (t : BitVec 4) : Fmt := if t = 9 then fmt64 else if t = 10 then fmtB16 else fmt32

/-! ### Bounds (R151, R158) -/

/-- up32 of a non-negative value. -/
def up32 (v : Val) : BitVec 32 := BitVec.ofNat 32 (encVal fmt32 .ru v.abs)
/-- Value of a bound register. -/
def bval (b : BitVec 32) : Val := valOf fmt32 b.toNat
/-- +∞ as a bound. -/
def bInf : BitVec 32 := 0x7F800000
/-- badd of R151. -/
def badd (a b : BitVec 32) : BitVec 32 := up32 (vsum [bval a, bval b])
/-- bmul of R151; ∞ · 0 is +∞. -/
def bmul (a b : BitVec 32) : BitVec 32 :=
  match vmul (bval a) (bval b) with
  | .nan => bInf
  | v => up32 v
/-- emax(M, f) of R151 for the magnitude m * 2^e. -/
def emax (f : Fmt) (m : Nat) (e : Int) : Int := if m = 0 then f.emin + 1 else max (e + bitLen m) (f.emin + 1)
/-- The larger of two magnitudes. -/
def magMax (a b : Nat × Int) : Nat × Int := if magLe a.1 a.2 b.1 b.2 then b else a
/-- Largest magnitude over the finite values of a list. -/
def maxMag (l : List Val) : Nat × Int :=
  l.foldl (fun a v => match v with | .num _ m e => magMax a (m, e) | _ => a) (0, 0)
/-- ρ of R159: `vals` are the finite cells of the result tile, `inexact` says whether an element written was rounded;
p is 9 for BF16. -/
def rho (f : Fmt) (vals : List Val) (inexact : Bool) : Val :=
  if inexact then
    let m := maxMag vals
    .num false 1 (emax f m.1 m.2 - (if f = fmtB16 then 9 else f.p))
  else .num false 0 0
/-- Whether rounding a finite value into a format changed it (R151). -/
def inexact (f : Fmt) (v : Val) : Bool :=
  match v with
  | .num _ _ _ => match valOf f (rne f v) with
    | .num n m e => !(Val.eqv v (.num n m e))
    | _ => true
  | _ => false

/-! ### MXINT (R147, R150, R163) -/

/-- Element width and F of an MX type. -/
def mxBits (t : BitVec 4) : Nat := if t = 11 then 8 else if t = 12 then 6 else 4
def mxF (t : BitVec 4) : Int := if t = 11 then 6 else if t = 12 then 4 else 2
/-- Two's-complement value of the low n bits. -/
def sInt (n x : Nat) : Int := if x % 2 ^ n < 2 ^ (n - 1) then (x % 2 ^ n : Nat) else ((x % 2 ^ n : Nat) : Int) - 2 ^ n
/-- Value of an MX element under its scale byte. -/
def mxVal (t : BitVec 4) (q : Int) (sc : Nat) : Val :=
  if sc = 255 then .nan else .num (q < 0) q.natAbs ((sc : Int) - 127 - mxF t)
/-- A product with an MX operand: a zero one is +0 (R152). -/
def mxMul (a b : Val) : Val :=
  match vmul a b with
  | .num _ 0 e => .num false 0 e
  | v => v
/-- Magnitude over a power of two rounded to the nearest integer. -/
def rneScale (m : Nat) (e sh : Int) : Nat :=
  if sh ≤ e then m * 2 ^ (e - sh).toNat else roundShr .rne false m (sh - e).toNat
/-- Search of qscale from S on. -/
def qscaleFrom (t : BitVec 4) (xs : List Val) : Nat → Nat → Nat
  | 0, _ => 254
  | fuel + 1, S =>
    if xs.all fun v => match v with
      | .num _ m e => rneScale m e ((S : Int) - 127 - mxF t) ≤ 2 ^ (mxBits t - 1) - 1
      | _ => true
    then S else qscaleFrom t xs fuel (S + 1)
/-- qscale of R163. -/
def qscale (t : BitVec 4) (xs : List Val) : Nat :=
  if xs.any fun v => !v.finite then 255 else qscaleFrom t xs 255 0
/-- Quantized element under a scale (R163); of a NaN or an infinity, 0. -/
def quant (t : BitVec 4) (sc : Nat) (v : Val) : Int :=
  match v with
    | .num n m e =>
      let lim : Int := 2 ^ (mxBits t - 1) - 1
      let q : Int := rneScale m e ((sc : Int) - 127 - mxF t)
      if n then max (-q) (-lim) else min q lim
    | _ => 0

/-- sdec of R150: scales of up to `n` blocks of a row, with the nibble position reached. `nib` reads a nibble. -/
def sdec (nib : Nat → Nat) : Nat → Nat → Nat → List Nat × Nat
  | 0, pos, _ => ([], pos)
  | n + 1, pos, prev =>
    let c := nib pos
    let (s, pos') :=
      if c = 8 then (16 * nib (pos + 2) + nib (pos + 1), pos + 3) else
      let d : Int := if c ≤ 7 then c else (c : Int) - 16
      let t : Int := prev + d
      ((if prev = 255 then 255 else if t < 0 || t > 254 then 255 else t.toNat), pos + 1)
    let (r, e) := sdec nib n pos' s
    (s :: r, e)

/-! ### rng64 (R172) -/

def rng64 (key ctr : Word) : Word :=
  let z := ctr + key * 0xA7C15E932D4B86F5
  let z := (z ^^^ (z >>> 31)) * 0x5B1EC8A3F07D4269
  let z := (z ^^^ (z >>> 28)) * 0xE3D92A61B58F0C3B
  z ^^^ (z >>> 33)

/-! ### Reduction tree (R173, R174) -/

/-- One level of the tree over optional values (inactive lanes are none). -/
def treeLevel {α : Type} (f : α → α → α) : List (Option α) → List (Option α)
  | a :: b :: t =>
    (match a, b with
      | some x, some y => some (f x y)
      | some x, none => some x
      | none, y => y) :: treeLevel f t
  | l => l
/-- The tree, level by level. -/
def treeRed {α : Type} (f : α → α → α) : Nat → List (Option α) → Option α
  | 0, l => l.headD none
  | n + 1, l => treeRed f n (treeLevel f l)

/-! ### Approximations (R323): fixed-point enclosures -/

/-- Largest r with r*r ≤ n, by bits. -/
def isqrtGo (n : Nat) : Nat → Nat → Nat
  | 0, r => r
  | i + 1, r => let r' := r + 2 ^ i; if r' * r' ≤ n then isqrtGo n i r' else isqrtGo n i r
def isqrt (n : Nat) : Nat := isqrtGo n (bitLen n / 2 + 1) 0

/-- Fixed-point precision of the enclosures. -/
def fxP : Nat := 640
def fxOne : Nat := 2 ^ fxP
/-- Σ z^(2k+1)/(2k+1) from term k on. -/
def atanhGo (z2 : Nat) : Nat → Nat → Nat → Nat → Nat
  | 0, _, _, acc => acc
  | fuel + 1, k, t, acc => if t = 0 then acc else atanhGo z2 fuel (k + 1) (t * z2 / fxOne) (acc + t / (2 * k + 1))
/-- atanh of a fixed-point number below 1/2. -/
def fxAtanh (z : Nat) : Nat := atanhGo (z * z / fxOne) 400 0 z 0
/-- ln 2. -/
def fxLn2 : Nat := 2 * fxAtanh (fxOne / 3)
/-- Σ y^k/k!. -/
def expGo (y : Nat) : Nat → Nat → Nat → Nat → Nat
  | 0, _, _, acc => acc
  | fuel + 1, k, t, acc => if t = 0 then acc else expGo y fuel (k + 1) (t * y / fxOne / (k + 1)) (acc + t)
/-- e^y for 0 ≤ y ≤ 2. -/
def fxExp (y : Nat) : Nat := expGo y 250 0 fxOne 0

/-- m * 2^e as fixed point, rounded down. -/
def toFx (m : Nat) (e : Int) : Nat := if 0 ≤ e + fxP then m * 2 ^ (e + fxP).toNat else m / 2 ^ (-(e + fxP)).toNat

/-- An enclosure [lo, hi] * 2^e of a result's magnitude. -/
structure Encl where
  lo : Nat
  hi : Nat
  e : Int

/-- 2^x for a finite x of magnitude below 512. -/
def exp2Encl (neg : Bool) (m : Nat) (e : Int) : Encl :=
  let fx := toFx m e
  let ip : Int := (fx / fxOne : Nat)
  let fr := fx % fxOne
  if neg then
    if fr = 0 then ⟨1, 1, -ip⟩
    else
      let y := fxExp ((fxOne - fr) * fxLn2 / fxOne)
      ⟨y - 2 ^ 16, y + 2 ^ 16, -ip - 1 - fxP⟩
  else if fr = 0 then ⟨1, 1, ip⟩
  else
    let y := fxExp (fr * fxLn2 / fxOne)
    ⟨y - 2 ^ 16, y + 2 ^ 16, ip - fxP⟩

/-- |log2 x| for x > 0 that is no power of two: sign and enclosure. -/
def log2Encl (m : Nat) (e : Int) : Bool × Encl :=
  let k := bitLen m - 1
  let r := m * fxOne / 2 ^ k
  let z := (r - fxOne) * fxOne / (r + fxOne)
  let l := 2 * fxAtanh z * fxOne / fxLn2
  let t : Int := (e + k) * fxOne + l
  (t < 0, ⟨t.natAbs - 2 ^ 16, t.natAbs + 2 ^ 16, -fxP⟩)

/-- tanh |x|. -/
def tanhEncl (m : Nat) (e : Int) : Encl :=
  if !magLe m e 64 0 then ⟨2 ^ 100 - 1, 2 ^ 100, -100⟩
  else
    let fx := 2 * toFx m e
    let n := fx / fxLn2
    let y := fxExp (fx - n * fxLn2) * 2 ^ n
    let t := (y - fxOne) * fxOne / (y + fxOne)
    ⟨t - 2 ^ 16, t + 2 ^ 16, -fxP⟩

/-- Quotient 2^k num/den with a sticky bit below it. -/
def stickyDiv (num den : Nat) : Nat :=
  let q := num / den
  2 * q + (if q * den = num then 0 else 1)

end Sys2Proof.Machine
end

