-- ==== Sys2Proof/Decode.lean ====
section
/-! DEFINITION. Slot words, prefixes and bundle headers (chapter 10): decoding, total on any bits, the encoder, and the
stepping of fields. -/

namespace Sys2Proof

/-- Slot number in slot order (R236). -/
def Slot.idx : Slot → Nat
  | .A => 0 | .B => 1 | .V => 2 | .W => 3 | .M => 4 | .L => 5 | .X => 6
/-- The seven slots in slot order. -/
def allSlots : List Slot := [.A, .B, .V, .W, .M, .L, .X]
/-- Class of a slot (R249). -/
def Slot.cls : Slot → SlotClass
  | .A | .B => .scalar | .V | .W => .vector | .M => .matrix | .L => .memory | .X => .aux
/-- Bytes of a slot word (R236). -/
def Slot.bytes : Slot → Nat
  | .A | .B | .X => 4 | _ => 8

/-- The prefixes aimed at one slot, by kind, each as its 25-bit payload (R243). -/
structure Pfx where
  ximm : Option (BitVec 25)
  vcnt : Option (BitVec 25)
  fmt  : Option (BitVec 25)
  sig  : Option (BitVec 25)
  deriving DecidableEq, Repr

/-- No prefix. -/
def Pfx.none : Pfx := ⟨.none, .none, .none, .none⟩

/-- Scalar formats (R250) and format XR (R258). -/
def packSR (op : BitVec 7) (d a b : BitVec 6) (fn : BitVec 7) : BitVec 32 := op ++ d ++ a ++ b ++ fn
def packSI (op : BitVec 7) (d a : BitVec 6) (imm : BitVec 13) : BitVec 32 := op ++ d ++ a ++ imm
def packSC (op : BitVec 7) (p cc : BitVec 4) (a : BitVec 6) (x : BitVec 11) : BitVec 32 := op ++ p ++ cc ++ a ++ x
def packSP (op : BitVec 7) (p a : BitVec 4) (na : Bool) (b : BitVec 4) (nb : Bool) : BitVec 32 :=
  op ++ p ++ a ++ BitVec.ofBool na ++ b ++ BitVec.ofBool nb ++ (0 : BitVec 11)
def packSB (op : BitVec 7) (p : BitVec 4) (n : Bool) (off : BitVec 20) : BitVec 32 :=
  op ++ p ++ BitVec.ofBool n ++ off
def packSL (op : BitVec 7) (v : BitVec 10) (n : BitVec 3) : BitVec 32 := op ++ v ++ n ++ (0 : BitVec 12)
def packXR (op : BitVec 7) (o : XOp) : BitVec 32 := op ++ o.v ++ o.t ++ o.idx ++ o.s
/-- Format VR (R252). -/
def packVR (op : BitVec 7) (o : VOp) : BitVec 64 :=
  op ++ o.ty ++ o.mreg ++ BitVec.ofBool o.mu ++ BitVec.ofBool o.mz ++ o.vd ++ o.va ++ o.vb ++ o.vc ++ o.se ++ o.fn
/-- Format MX (R254). -/
def packMX (op : BitVec 7) (o : MOp) : BitVec 64 :=
  op ++ o.fa ++ o.fb ++ BitVec.ofBool o.pr ++ o.d ++ o.ta ++ o.tb ++ o.ka ++ o.kb ++ o.se ++ o.fn ++ o.aux
/-- Format MK (R254). -/
def packMK (f : BitVec 4) (seed : BitVec 6) (sig : BitVec 39) : BitVec 64 :=
  (0x30 : BitVec 7) ++ f ++ seed ++ sig ++ (0 : BitVec 8)
/-- Format LM (R256). -/
def packLM (op : BitVec 7) (o : LOp) : BitVec 64 :=
  op ++ o.ty ++ o.ord ++ o.scope ++ o.d ++ o.b ++ o.x ++ o.mreg ++ BitVec.ofBool o.mu ++ o.se ++ o.fn
    ++ o.disp.extractLsb' 0 16

/-- A 32-bit word in the low half of a 64-bit one. -/
def w32 (x : BitVec 32) : BitVec 64 := x.setWidth 64

/-- One bit as a Bool. -/
def bitAt {n : Nat} (w : BitVec n) (i : Nat) : Bool := w.getLsbD i

/-- Fields of format VR. -/
def unVR (w : BitVec 64) (c : Option (BitVec 25)) : VOp where
  ty := w.extractLsb' 53 4
  mreg := w.extractLsb' 50 3
  mu := bitAt w 49
  mz := bitAt w 48
  vd := w.extractLsb' 38 10
  va := w.extractLsb' 28 10
  vb := w.extractLsb' 18 10
  vc := w.extractLsb' 8 10
  se := w.extractLsb' 5 3
  fn := w.extractLsb' 0 5
  vcnt := c.map (·.extractLsb' 0 6)
/-- Fields of format MX. -/
def unMX (w : BitVec 64) (c : Option (BitVec 25)) : MOp where
  fa := w.extractLsb' 53 4
  fb := w.extractLsb' 49 4
  pr := bitAt w 48
  d := w.extractLsb' 46 2
  ta := w.extractLsb' 43 3
  tb := w.extractLsb' 40 3
  ka := w.extractLsb' 36 4
  kb := w.extractLsb' 32 4
  se := w.extractLsb' 28 4
  fn := w.extractLsb' 16 12
  aux := w.extractLsb' 0 16
  vcnt := c.map (·.extractLsb' 0 6)
/-- Fields of format LM; the displacement is the one the sticky state holds. -/
def unLM (w : BitVec 64) (c : Option (BitVec 25)) (disp : Word) : LOp where
  ty := w.extractLsb' 53 4
  ord := w.extractLsb' 51 2
  scope := w.extractLsb' 48 3
  d := w.extractLsb' 38 10
  b := w.extractLsb' 32 6
  x := w.extractLsb' 26 6
  mreg := w.extractLsb' 23 3
  mu := bitAt w 22
  se := w.extractLsb' 20 2
  fn := w.extractLsb' 16 4
  disp := disp
  vcnt := c.map (·.extractLsb' 0 6)
/-- Fields of format XR. -/
def unXR (w : BitVec 64) : XOp where
  v := w.extractLsb' 15 10
  t := w.extractLsb' 11 4
  idx := w.extractLsb' 6 5
  s := w.extractLsb' 0 6

/-- R243: a 13-bit immediate, or the 38 bits an XIMM prefix makes of it. -/
def immSI (w : BitVec 64) (x : Option (BitVec 25)) : BitVec 38 :=
  match x with
  | some p => p ++ w.extractLsb' 0 13
  | none => (w.extractLsb' 0 13).signExtend 38
/-- R243, cmpi. -/
def immSC (w : BitVec 64) (x : Option (BitVec 25)) : BitVec 36 :=
  match x with
  | some p => p ++ w.extractLsb' 0 11
  | none => (w.extractLsb' 0 11).signExtend 36
/-- R243, branch offsets. -/
def immSB (w : BitVec 64) (x : Option (BitVec 25)) : BitVec 45 :=
  match x with
  | some p => p ++ w.extractLsb' 0 20
  | none => (w.extractLsb' 0 20).signExtend 45
/-- R243, displacements. -/
def immDisp (w : BitVec 64) (x : Option (BitVec 25)) : Word :=
  match x with
  | some p => (p ++ w.extractLsb' 0 16 : BitVec 41).signExtend 64
  | none => (w.extractLsb' 0 16).signExtend 64

/-- R243, FMT: the codes of the prefix in place of the format fields; 0xF keeps a field. -/
def applyFmt (c : SlotClass) (w : BitVec 64) (f : Option (BitVec 25)) : BitVec 64 :=
  match f with
  | none => w
  | some p =>
    let f1 : BitVec 4 := p.extractLsb' 0 4
    let f2 : BitVec 4 := p.extractLsb' 4 4
    let w1 := if f1 == 15 then w else
      (w &&& ~~~((15 : BitVec 64) <<< 53)) ||| (f1.setWidth 64 <<< 53)
    if f2 == 15 || c == .memory then w1 else
      (w1 &&& ~~~((15 : BitVec 64) <<< 49)) ||| (f2.setWidth 64 <<< 49)

/-- The slot word of an instruction (R249 to R259); 0 for a step without an encoding. -/
def encodeWord : Instr → BitVec 64
  | .add d a b => w32 (packSR 0x00 d a b 0)
  | .sub d a b => w32 (packSR 0x01 d a b 0)
  | .mul d a b => w32 (packSR 0x02 d a b 0)
  | .mulh d a b => w32 (packSR 0x03 d a b 0)
  | .mulhu d a b => w32 (packSR 0x04 d a b 0)
  | .div d a b => w32 (packSR 0x05 d a b 0)
  | .divu d a b => w32 (packSR 0x06 d a b 0)
  | .rem d a b => w32 (packSR 0x07 d a b 0)
  | .remu d a b => w32 (packSR 0x08 d a b 0)
  | .and d a b => w32 (packSR 0x09 d a b 0)
  | .or d a b => w32 (packSR 0x0A d a b 0)
  | .xor d a b => w32 (packSR 0x0B d a b 0)
  | .andn d a b => w32 (packSR 0x0C d a b 0)
  | .shl d a b => w32 (packSR 0x0D d a b 0)
  | .shr d a b => w32 (packSR 0x0E d a b 0)
  | .sar d a b => w32 (packSR 0x0F d a b 0)
  | .min d a b => w32 (packSR 0x10 d a b 0)
  | .max d a b => w32 (packSR 0x11 d a b 0)
  | .minu d a b => w32 (packSR 0x12 d a b 0)
  | .maxu d a b => w32 (packSR 0x13 d a b 0)
  | .clz d a => w32 (packSR 0x14 d a 0 0)
  | .popc d a => w32 (packSR 0x15 d a 0 0)
  | .ext d a b w sgn => w32 (packSR 0x16 d a b (BitVec.ofBool sgn ++ w))
  | .sel d a b p neg => w32 (packSR 0x17 d a b ((0 : BitVec 2) ++ BitVec.ofBool neg ++ p))
  | .adds d a b uns => w32 (packSR 0x18 d a b (BitVec.ofBool uns).toNat)
  | .setkey d a b => w32 (packSR 0x19 d a b 0)
  | .addi d a imm => w32 (packSI 0x20 d a (imm.extractLsb' 0 13))
  | .andi d a imm => w32 (packSI 0x21 d a (imm.extractLsb' 0 13))
  | .ori d a imm => w32 (packSI 0x22 d a (imm.extractLsb' 0 13))
  | .xori d a imm => w32 (packSI 0x23 d a (imm.extractLsb' 0 13))
  | .shli d a sh => w32 (packSI 0x24 d a (sh.setWidth 13))
  | .shri d a sh => w32 (packSI 0x25 d a (sh.setWidth 13))
  | .sari d a sh => w32 (packSI 0x26 d a (sh.setWidth 13))
  | .movi d imm => w32 (packSI 0x27 d 0 (imm.extractLsb' 0 13))
  | .lih d a imm => w32 (packSI 0x28 d a (imm.extractLsb' 0 13))
  | .cmp p cc a b => w32 (packSC 0x30 p cc a (b ++ (0 : BitVec 5)))
  | .cmpi p cc a imm => w32 (packSC 0x31 p cc a (imm.extractLsb' 0 11))
  | .pand p a na b nb => w32 (packSP 0x34 p a na b nb)
  | .por p a na b nb => w32 (packSP 0x35 p a na b nb)
  | .pxor p a na b nb => w32 (packSP 0x36 p a na b nb)
  | .pandn p a na b nb => w32 (packSP 0x37 p a na b nb)
  | .csrr d n => w32 (packSI 0x40 d 0 n)
  | .csrw n a => w32 (packSI 0x41 0 a n)
  | .csrs n a => w32 (packSI 0x42 0 a n)
  | .csrc n a => w32 (packSI 0x43 0 a n)
  | .lcw n a => w32 (packSI 0x44 0 a (n.setWidth 13))
  | .lcr d n => w32 (packSI 0x45 d 0 (n.setWidth 13))
  | .br p neg off => w32 (packSB 0x50 p neg (off.extractLsb' 0 20))
  | .call p neg off => w32 (packSB 0x51 p neg (off.extractLsb' 0 20))
  | .jr a => w32 (packSI 0x52 0 a 0)
  | .callr a => w32 (packSI 0x53 0 a 0)
  | .ret => w32 (packSI 0x54 0 63 0)
  | .loopn v n => w32 (packSL 0x55 v n)
  | .ifence a n => w32 (packSI 0x56 0 a (n.setWidth 13))
  | .ifenceAll => w32 (packSI 0x56 0 0 0x1000)
  | .iswapStage a n => w32 (packSI 0x57 0 a (n.setWidth 13))
  | .iswap => w32 (packSI 0x57 0 0 0x1000)
  | .trap n => w32 (packSI 0x58 0 0 (n.setWidth 13))
  | .eret => w32 (packSI 0x59 0 0 0)
  | .suspend c a v => w32 (packSI 0x5A v a (c.setWidth 13))
  | .suspendDorm => w32 (packSI 0x5A 0 0 0x10)
  | .yield => w32 (packSI 0x5B 0 0 0)
  | .retire => w32 (packSI 0x5C 0 0 0)
  | .vadd o => packVR 0x00 o
  | .vsub o => packVR 0x01 o
  | .vmul o => packVR 0x02 o
  | .vfma o => packVR 0x03 o
  | .vfms o => packVR 0x04 o
  | .vmin o => packVR 0x05 o
  | .vmax o => packVR 0x06 o
  | .vabs o => packVR 0x07 o
  | .vneg o => packVR 0x08 o
  | .vadds o => packVR 0x09 o
  | .vsubs o => packVR 0x0A o
  | .vmov o => packVR 0x0B o
  | .vmulh o => packVR 0x0C o
  | .vand o => packVR 0x10 o
  | .vor o => packVR 0x11 o
  | .vxor o => packVR 0x12 o
  | .vandn o => packVR 0x13 o
  | .vshl o => packVR 0x14 o
  | .vshr o => packVR 0x15 o
  | .vsar o => packVR 0x16 o
  | .vcmp o => packVR 0x18 o
  | .vsel o => packVR 0x19 o
  | .mand o => packVR 0x1A o
  | .mor o => packVR 0x1B o
  | .mxor o => packVR 0x1C o
  | .mandn o => packVR 0x1D o
  | .mpop o => packVR 0x1E o
  | .vcvt o => packVR 0x20 o
  | .vqnt o => packVR 0x21 o
  | .vdqnt o => packVR 0x22 o
  | .vredsum o => packVR 0x28 o
  | .vredmax o => packVR 0x29 o
  | .vredmin o => packVR 0x2A o
  | .vperm o => packVR 0x30 o
  | .vbcast o => packVR 0x31 o
  | .vbcastScalar o => packVR 0x31 o
  | .vlane o => packVR 0x32 o
  | .vmovs o => packVR 0x33 o
  | .vmovl o => packVR 0x34 o
  | .vslide o => packVR 0x35 o
  | .vzip o => packVR 0x36 o
  | .vunzip o => packVR 0x37 o
  | .vrcp o => packVR 0x38 o
  | .vrsqrt o => packVR 0x39 o
  | .vexp2 o => packVR 0x3A o
  | .vlog2 o => packVR 0x3B o
  | .vtanh o => packVR 0x3C o
  | .vrng o => packVR 0x40 o
  | .mma o => packMX 0x00 o
  | .mmas o => packMX 0x01 o
  | .tadd o => packMX 0x08 o
  | .tscl o => packMX 0x09 o
  | .tcvt o => packMX 0x10 o
  | .tqnt o => packMX 0x11 o
  | .tcmpr o => packMX 0x18 o
  | .tdcmp o => packMX 0x19 o
  | .tmov o => packMX 0x20 o
  | .mkat f seed sig => packMK f seed (sig.extractLsb' 0 39)
  | .ld o => packLM 0x00 o
  | .st o => packLM 0x01 o
  | .vld o => packLM 0x02 o
  | .vst o => packLM 0x03 o
  | .vlds o => packLM 0x04 o
  | .vsts o => packLM 0x05 o
  | .vgath o => packLM 0x06 o
  | .vscat o => packLM 0x07 o
  | .ldfar o => packLM 0x08 o
  | .vldfar o => packLM 0x09 o
  | .qmark o => packLM 0x10 o
  | .fence o => packLM 0x11 o
  | .atom o => packLM 0x18 o
  | .arrive o => packLM 0x20 o
  | .waitp o => packLM 0x21 o
  | .berth o => packLM 0x22 o
  | .ownx o => packLM 0x23 o
  | .monarm o => packLM 0x24 o
  | .monwait o => packLM 0x25 o
  | .pref o => packLM 0x28 o
  | .cwb o => packLM 0x29 o
  | .cinv o => packLM 0x2A o
  | .cinvAll o => packLM 0x2A o
  | .tagset o => packLM 0x2C o
  | .tagrd o => packLM 0x2D o
  | .tld o => packLM 0x30 o
  | .tst o => packLM 0x31 o
  | .tcfg o => packLM 0x32 o
  | .tsave o => packLM 0x33 o
  | .trest o => packLM 0x34 o
  | .tsend o => packLM 0x35 o
  | .trigger o => packLM 0x38 o
  | .spawn o => packLM 0x39 o
  | .launch o => packLM 0x3A o
  | .gssnext o => packLM 0x3B o
  | .sld o => w32 (packXR 0x00 o)
  | .trw o => w32 (packXR 0x08 o)
  | .trr o => w32 (packXR 0x09 o)
  | .tcw o => w32 (packXR 0x0A o)
  | .tcr o => w32 (packXR 0x0B o)
  | .tzero o => w32 (packXR 0x0C o)
  | .brd o => w32 (packXR 0x10 o)
  | .bwr o => w32 (packXR 0x11 o)
  | .bchk o => w32 (packXR 0x12 o)
  | .bclr o => w32 (packXR 0x13 o)
  | .sgrd o => w32 (packXR 0x18 o)
  | .sgclr o => w32 (packXR 0x19 o)
  | .kwr o => w32 (packXR 0x20 o)
  | .krd o => w32 (packXR 0x21 o)
  | _ => 0

/-- The XIMM payload an instruction needs: none where its field alone gives the value. -/
def ximmOf : Instr → Option (BitVec 25)
  | .addi _ _ i | .andi _ _ i | .ori _ _ i | .xori _ _ i | .movi _ i | .lih _ _ i =>
    if (i.extractLsb' 0 13).signExtend 38 = i then none else some (i.extractLsb' 13 25)
  | .cmpi _ _ _ i => if (i.extractLsb' 0 11).signExtend 36 = i then none else some (i.extractLsb' 11 25)
  | .br _ _ i | .call _ _ i => if (i.extractLsb' 0 20).signExtend 45 = i then none else some (i.extractLsb' 20 25)
  | .ld o | .st o | .vld o | .vst o | .vlds o | .vsts o | .vgath o | .vscat o
  | .ldfar o | .vldfar o | .qmark o | .fence o | .atom o | .arrive o | .waitp o | .berth o
  | .ownx o | .monarm o | .monwait o | .pref o | .cwb o | .cinv o | .tagset o | .tagrd o
  | .tld o | .tst o | .tcfg o | .tsave o | .trest o | .tsend o | .trigger o | .spawn o
  | .launch o | .gssnext o | .cinvAll o =>
    if (o.disp.extractLsb' 0 16).signExtend 64 = o.disp then none else some (o.disp.extractLsb' 16 25)
  | _ => none

/-- The count register of an instruction's VCNT prefix. -/
def vcntOf : Instr → Option Reg
  | .vadd o | .vsub o | .vmul o | .vfma o | .vfms o | .vmin o | .vmax o | .vabs o
  | .vneg o | .vadds o | .vsubs o | .vmov o | .vmulh o | .vand o | .vor o | .vxor o
  | .vandn o | .vshl o | .vshr o | .vsar o | .vcmp o | .vsel o | .mand o | .mor o
  | .mxor o | .mandn o | .mpop o | .vcvt o | .vqnt o | .vdqnt o | .vredsum o | .vredmax o
  | .vredmin o | .vperm o | .vbcast o | .vlane o | .vmovs o | .vmovl o | .vslide o | .vzip o
  | .vunzip o | .vrcp o | .vrsqrt o | .vexp2 o | .vlog2 o | .vtanh o | .vrng o | .vbcastScalar o => o.vcnt
  | .mma o | .mmas o | .tadd o | .tscl o | .tcvt o | .tqnt o | .tcmpr o | .tdcmp o
  | .tmov o => o.vcnt
  | .ld o | .st o | .vld o | .vst o | .vlds o | .vsts o | .vgath o | .vscat o
  | .ldfar o | .vldfar o | .qmark o | .fence o | .atom o | .arrive o | .waitp o | .berth o
  | .ownx o | .monarm o | .monwait o | .pref o | .cwb o | .cinv o | .tagset o | .tagrd o
  | .tld o | .tst o | .tcfg o | .tsave o | .trest o | .tsend o | .trigger o | .spawn o
  | .launch o | .gssnext o | .cinvAll o => o.vcnt
  | _ => none

/-- The KATSIG payload of mkat (R389). -/
def sigOf : Instr → Option (BitVec 25)
  | .mkat _ _ s => if s.extractLsb' 39 25 = 0 then none else some (s.extractLsb' 39 25)
  | _ => none

/-- The words of an instruction: its slot word and its prefixes. -/
def encode (i : Instr) : BitVec 64 × Pfx :=
  (encodeWord i, ⟨ximmOf i, (vcntOf i).map (·.setWidth 25), none, sigOf i⟩)

/-- A displacement a word and an XIMM prefix can give (41 bits, R243). -/
def Instr.dispFits : Instr → Bool
  | .ld o | .st o | .vld o | .vst o | .vlds o | .vsts o | .vgath o | .vscat o
  | .ldfar o | .vldfar o | .qmark o | .fence o | .atom o | .arrive o | .waitp o | .berth o
  | .ownx o | .monarm o | .monwait o | .pref o | .cwb o | .cinv o | .tagset o | .tagrd o
  | .tld o | .tst o | .tcfg o | .tsave o | .trest o | .tsend o | .trigger o | .spawn o
  | .launch o | .gssnext o | .cinvAll o =>
    (o.disp.extractLsb' 0 41).signExtend 64 == o.disp
  | _ => true

/-- Scalar opcode map (R251). -/
def rawScalar (w : BitVec 64) (p : Pfx) : Option Instr :=
  let d : Reg := w.extractLsb' 19 6
  let a : Reg := w.extractLsb' 13 6
  let b : Reg := w.extractLsb' 7 6
  match (w.extractLsb' 25 7).toNat with
  | 0x00 => some (.add d a b)
  | 0x01 => some (.sub d a b)
  | 0x02 => some (.mul d a b)
  | 0x03 => some (.mulh d a b)
  | 0x04 => some (.mulhu d a b)
  | 0x05 => some (.div d a b)
  | 0x06 => some (.divu d a b)
  | 0x07 => some (.rem d a b)
  | 0x08 => some (.remu d a b)
  | 0x09 => some (.and d a b)
  | 0x0A => some (.or d a b)
  | 0x0B => some (.xor d a b)
  | 0x0C => some (.andn d a b)
  | 0x0D => some (.shl d a b)
  | 0x0E => some (.shr d a b)
  | 0x0F => some (.sar d a b)
  | 0x10 => some (.min d a b)
  | 0x11 => some (.max d a b)
  | 0x12 => some (.minu d a b)
  | 0x13 => some (.maxu d a b)
  | 0x14 => some (.clz d a)
  | 0x15 => some (.popc d a)
  | 0x16 => some (.ext d a b (w.extractLsb' 0 6) (bitAt w 6))
  | 0x17 => some (.sel d a b (w.extractLsb' 0 4) (bitAt w 4))
  | 0x18 => some (.adds d a b (bitAt w 0))
  | 0x19 => some (.setkey d a b)
  | 0x20 => some (.addi d a (immSI w p.ximm))
  | 0x21 => some (.andi d a (immSI w p.ximm))
  | 0x22 => some (.ori d a (immSI w p.ximm))
  | 0x23 => some (.xori d a (immSI w p.ximm))
  | 0x24 => some (.shli d a (w.extractLsb' 0 6))
  | 0x25 => some (.shri d a (w.extractLsb' 0 6))
  | 0x26 => some (.sari d a (w.extractLsb' 0 6))
  | 0x27 => some (.movi d (immSI w p.ximm))
  | 0x28 => some (.lih d a (immSI w p.ximm))
  | 0x30 => some (.cmp (w.extractLsb' 21 4) (w.extractLsb' 17 4) (w.extractLsb' 11 6) (w.extractLsb' 5 6))
  | 0x31 => some (.cmpi (w.extractLsb' 21 4) (w.extractLsb' 17 4) (w.extractLsb' 11 6) (immSC w p.ximm))
  | 0x34 => some (.pand (w.extractLsb' 21 4) (w.extractLsb' 17 4) (bitAt w 16) (w.extractLsb' 12 4) (bitAt w 11))
  | 0x35 => some (.por (w.extractLsb' 21 4) (w.extractLsb' 17 4) (bitAt w 16) (w.extractLsb' 12 4) (bitAt w 11))
  | 0x36 => some (.pxor (w.extractLsb' 21 4) (w.extractLsb' 17 4) (bitAt w 16) (w.extractLsb' 12 4) (bitAt w 11))
  | 0x37 => some (.pandn (w.extractLsb' 21 4) (w.extractLsb' 17 4) (bitAt w 16) (w.extractLsb' 12 4) (bitAt w 11))
  | 0x40 => some (.csrr d (w.extractLsb' 0 13))
  | 0x41 => some (.csrw (w.extractLsb' 0 13) a)
  | 0x42 => some (.csrs (w.extractLsb' 0 13) a)
  | 0x43 => some (.csrc (w.extractLsb' 0 13) a)
  | 0x44 => some (.lcw (w.extractLsb' 0 3) a)
  | 0x45 => some (.lcr d (w.extractLsb' 0 3))
  | 0x50 => some (.br (w.extractLsb' 21 4) (bitAt w 20) (immSB w p.ximm))
  | 0x51 => some (.call (w.extractLsb' 21 4) (bitAt w 20) (immSB w p.ximm))
  | 0x52 => some (.jr a)
  | 0x53 => some (.callr a)
  | 0x54 => some .ret
  | 0x55 => some (.loopn (w.extractLsb' 15 10) (w.extractLsb' 12 3))
  | 0x56 => if bitAt w 12 then some .ifenceAll else some (.ifence a (w.extractLsb' 0 10))
  | 0x57 => if bitAt w 12 then some .iswap else some (.iswapStage a (w.extractLsb' 0 10))
  | 0x58 => some (.trap (w.extractLsb' 0 8))
  | 0x59 => some .eret
  | 0x5A => if bitAt w 4 then some .suspendDorm else some (.suspend (w.extractLsb' 0 4) a d)
  | 0x5B => some .yield
  | 0x5C => some .retire
  | _ => none

/-- Vector opcode map (R253). -/
def rawVector (w : BitVec 64) (p : Pfx) : Option Instr :=
  let o := unVR w p.vcnt
  match (w.extractLsb' 57 7).toNat with
  | 0x00 => some (.vadd o)
  | 0x01 => some (.vsub o)
  | 0x02 => some (.vmul o)
  | 0x03 => some (.vfma o)
  | 0x04 => some (.vfms o)
  | 0x05 => some (.vmin o)
  | 0x06 => some (.vmax o)
  | 0x07 => some (.vabs o)
  | 0x08 => some (.vneg o)
  | 0x09 => some (.vadds o)
  | 0x0A => some (.vsubs o)
  | 0x0B => some (.vmov o)
  | 0x0C => some (.vmulh o)
  | 0x10 => some (.vand o)
  | 0x11 => some (.vor o)
  | 0x12 => some (.vxor o)
  | 0x13 => some (.vandn o)
  | 0x14 => some (.vshl o)
  | 0x15 => some (.vshr o)
  | 0x16 => some (.vsar o)
  | 0x18 => some (.vcmp o)
  | 0x19 => some (.vsel o)
  | 0x1A => some (.mand o)
  | 0x1B => some (.mor o)
  | 0x1C => some (.mxor o)
  | 0x1D => some (.mandn o)
  | 0x1E => some (.mpop o)
  | 0x20 => some (.vcvt o)
  | 0x21 => some (.vqnt o)
  | 0x22 => some (.vdqnt o)
  | 0x28 => some (.vredsum o)
  | 0x29 => some (.vredmax o)
  | 0x2A => some (.vredmin o)
  | 0x30 => some (.vperm o)
  | 0x31 => if bitAt w 0 then some (.vbcastScalar o) else some (.vbcast o)
  | 0x32 => some (.vlane o)
  | 0x33 => some (.vmovs o)
  | 0x34 => some (.vmovl o)
  | 0x35 => some (.vslide o)
  | 0x36 => some (.vzip o)
  | 0x37 => some (.vunzip o)
  | 0x38 => some (.vrcp o)
  | 0x39 => some (.vrsqrt o)
  | 0x3A => some (.vexp2 o)
  | 0x3B => some (.vlog2 o)
  | 0x3C => some (.vtanh o)
  | 0x40 => some (.vrng o)
  | _ => none

/-- Matrix opcode map (R255). -/
def rawMatrix (w : BitVec 64) (p : Pfx) : Option Instr :=
  let o := unMX w p.vcnt
  match (w.extractLsb' 57 7).toNat with
  | 0x00 => some (.mma o)
  | 0x01 => some (.mmas o)
  | 0x08 => some (.tadd o)
  | 0x09 => some (.tscl o)
  | 0x10 => some (.tcvt o)
  | 0x11 => some (.tqnt o)
  | 0x18 => some (.tcmpr o)
  | 0x19 => some (.tdcmp o)
  | 0x20 => some (.tmov o)
  | 0x30 => some (.mkat (w.extractLsb' 53 4) (w.extractLsb' 47 6) (p.sig.getD 0 ++ w.extractLsb' 8 39))
  | _ => none

/-- Memory-queue opcode map (R257). -/
def rawMemory (w : BitVec 64) (p : Pfx) (disp : Word) : Option Instr :=
  let o := unLM w p.vcnt disp
  match (w.extractLsb' 57 7).toNat with
  | 0x00 => some (.ld o)
  | 0x01 => some (.st o)
  | 0x02 => some (.vld o)
  | 0x03 => some (.vst o)
  | 0x04 => some (.vlds o)
  | 0x05 => some (.vsts o)
  | 0x06 => some (.vgath o)
  | 0x07 => some (.vscat o)
  | 0x08 => some (.ldfar o)
  | 0x09 => some (.vldfar o)
  | 0x10 => some (.qmark o)
  | 0x11 => some (.fence o)
  | 0x18 => some (.atom o)
  | 0x20 => some (.arrive o)
  | 0x21 => some (.waitp o)
  | 0x22 => some (.berth o)
  | 0x23 => some (.ownx o)
  | 0x24 => some (.monarm o)
  | 0x25 => some (.monwait o)
  | 0x28 => some (.pref o)
  | 0x29 => some (.cwb o)
  | 0x2A => if o.fn == 0 then some (.cinv o) else some (.cinvAll o)
  | 0x2C => some (.tagset o)
  | 0x2D => some (.tagrd o)
  | 0x30 => some (.tld o)
  | 0x31 => some (.tst o)
  | 0x32 => some (.tcfg o)
  | 0x33 => some (.tsave o)
  | 0x34 => some (.trest o)
  | 0x35 => some (.tsend o)
  | 0x38 => some (.trigger o)
  | 0x39 => some (.spawn o)
  | 0x3A => some (.launch o)
  | 0x3B => some (.gssnext o)
  | _ => none

/-- Auxiliary opcode map (R259). -/
def rawAux (w : BitVec 64) : Option Instr :=
  let o := unXR w
  match (w.extractLsb' 25 7).toNat with
  | 0x00 => some (.sld o)
  | 0x08 => some (.trw o)
  | 0x09 => some (.trr o)
  | 0x0A => some (.tcw o)
  | 0x0B => some (.tcr o)
  | 0x0C => some (.tzero o)
  | 0x10 => some (.brd o)
  | 0x11 => some (.bwr o)
  | 0x12 => some (.bchk o)
  | 0x13 => some (.bclr o)
  | 0x18 => some (.sgrd o)
  | 0x19 => some (.sgclr o)
  | 0x20 => some (.kwr o)
  | 0x21 => some (.krd o)
  | _ => none

/-- The instruction a slot word stands for, before its field rules are checked. -/
def rawDecode (c : SlotClass) (w : BitVec 64) (p : Pfx) (disp : Word) : Option Instr :=
  let w := applyFmt c w p.fmt
  match c with
  | .scalar => rawScalar w p
  | .vector => rawVector w p
  | .matrix => rawMatrix w p
  | .memory => rawMemory w p disp
  | .aux => rawAux w

/-- Decoding a slot word with its prefixes; the displacement is the stepped one. The word must be the instruction's
own word, so that no reserved or unused field is set, and the instruction's field rules must hold (R244 item 3). -/
def decodeSticky (c : SlotClass) (w : BitVec 64) (p : Pfx) (disp : Word) : Option Instr :=
  match rawDecode c w p disp with
  | none => none
  | some i =>
    let w' := applyFmt c w p.fmt
    let same := if c = .memory then (encodeWord i) >>> 16 = w' >>> 16 else encodeWord i = w'
    if same ∧ i.wf = true then some i else none

/-- Decoding a slot word given by a bundle. -/
def decodeWord (c : SlotClass) (w : BitVec 64) (p : Pfx) : Option Instr := decodeSticky c w p (immDisp w p.ximm)

/-- R243: operations that take XIMM. -/
def takesXimm : Instr → Bool
  | .addi _ _ _ | .andi _ _ _ | .ori _ _ _ | .xori _ _ _ | .movi _ _ | .lih _ _ _ | .cmpi _ _ _ _
  | .br _ _ _ | .call _ _ _ | .ld _ | .st _ | .vld _ | .vst _ | .vlds _
  | .vsts _ | .vgath _ | .vscat _ | .ldfar _ | .vldfar _ | .atom _ | .arrive _
  | .waitp _ | .berth _ | .ownx _ | .monarm _ | .pref _ | .cwb _ | .cinv _
  | .tagset _ | .tagrd _ | .tld _ | .tst _ | .tcfg _ | .tsave _ | .trest _
  | .tsend _ | .spawn _ | .launch _ | .gssnext _ => true
  | _ => false

/-- R243, R306, R327, R361, R380: operations that take VCNT. -/
def takesVcnt : Instr → Bool
  | .vadd _ | .vsub _ | .vmul _ | .vfma _ | .vfms _ | .vmin _ | .vmax _
  | .vabs _ | .vneg _ | .vadds _ | .vsubs _ | .vmov _ | .vmulh _ | .vand _
  | .vor _ | .vxor _ | .vandn _ | .vshl _ | .vshr _ | .vsar _ | .vcmp _
  | .vsel _ | .vcvt _ | .vredsum _ | .vredmax _ | .vredmin _ | .vperm _ | .vbcast _
  | .vlane _ | .vslide _ | .vzip _ | .vunzip _ | .vrcp _ | .vrsqrt _ | .vexp2 _
  | .vlog2 _ | .vtanh _ | .vrng _ | .vbcastScalar _ | .mma _ | .mmas _ | .tadd _
  | .tscl _ | .tcvt _ | .vld _ | .vst _ | .vlds _ | .vsts _ | .vgath _
  | .vscat _ | .vldfar _ => true
  | .tld o | .tst o | .tsend o => o.fn &&& 1 == 0
  | _ => false

/-- R243: operations with tile-format fields. -/
def takesFmt : Instr → Bool
  | .mma _ | .mmas _ | .tcvt _ | .tqnt _ | .tcmpr _ | .tdcmp _ | .tld _ | .tst _ | .tsend _ => true
  | _ => false

/-- R243: mkat alone takes KATSIG. -/
def takesSig : Instr → Bool
  | .mkat _ _ _ => true
  | _ => false

/-- R244 item 2, for the prefixes aimed at a slot in mode new: each kind is one its operation takes, and no reserved
payload bit is set. -/
def pfxOk (c : SlotClass) (w : BitVec 64) (p : Pfx) : Bool :=
  let i := rawDecode c w p (immDisp w p.ximm)
  let t (f : Instr → Bool) : Bool := (i.map f).getD false
  (p.ximm.isNone || t takesXimm)
    && (match p.vcnt with | none => true | some v => t takesVcnt && v < 64)
    && (match p.fmt with
        | none => true
        | some v => t takesFmt && v < 256 && (c != .memory || v.extractLsb' 4 4 == 15))
    && (p.sig.isNone || t takesSig)

/-- Operations of the control group (R251). -/
def Instr.isControl : Instr → Bool
  | .br _ _ _ | .call _ _ _ | .jr _ | .callr _ | .ret | .loopn _ _ | .ifence _ _ | .ifenceAll | .iswapStage _ _
  | .iswap | .trap _ | .eret | .suspend _ _ _ | .suspendDorm | .yield | .retire => true
  | _ => false

/-! ### Bundle headers (R237) -/

/-- A bit field of a word as a number. -/
def fld {n : Nat} (w : BitVec n) (lo len : Nat) : Nat := (w.extractLsb' lo len).toNat
/-- Mode of a slot. -/
def hMode (h : Word) (s : Slot) : Nat := fld h (2 * s.idx) 2
/-- Nibble of a slot, signed. -/
def hNudge (h : Word) (s : Slot) : BitVec 4 := h.extractLsb' (32 + 4 * s.idx) 4
/-- Repeat count. -/
def hRep (h : Word) : Nat := fld h 14 6
/-- Checkpoint bit. -/
def hC (h : Word) : Bool := bitAt h 20
/-- Marker bit. -/
def hK (h : Word) : Bool := bitAt h 21
/-- Number of prefix words. -/
def hNpfx (h : Word) : Nat := fld h 22 2
/-- Last bundle of a loop body. -/
def hE (h : Word) : Bool := bitAt h 24
/-- R244 item 1: reserved fields zero, and NPFX not 3. -/
def hOk (h : Word) : Bool := fld h 60 4 == 0 && fld h 25 7 == 0 && hNpfx h != 3
/-- Bytes of the bundle with this header (R236). -/
def bundleLen (h : Word) : Nat :=
  8 + 4 * hNpfx h + (if hK h then 4 else 0)
    + (allSlots.map fun s => if hMode h s = 2 then s.bytes else 0).sum

/-- Little-endian number of a byte list (R5). -/
def leNat : List Byte → Nat
  | [] => 0
  | b :: t => b.toNat + 256 * leNat t
/-- The first `n` bytes as a word. -/
def leWord (w : Nat) (bs : List Byte) : BitVec w := BitVec.ofNat w (leNat bs)
/-- The bytes of a number, lowest first. -/
def leBytes (n : Nat) (x : Nat) : List Byte :=
  match n with
  | 0 => []
  | n + 1 => BitVec.ofNat 8 x :: leBytes n (x / 256)

/-- A bundle as fetched: header, prefix words, marker word and the words of the slots in mode new. -/
structure Bundle where
  hdr : Word
  pfx : List (BitVec 32)
  mark : Option (BitVec 32)
  words : List (Slot × BitVec 64)
  deriving DecidableEq, Repr

/-- Slot words in slot order. -/
def slotWords (h : Word) : List Slot → List Byte → List (Slot × BitVec 64)
  | [], _ => []
  | s :: t, bs =>
    if hMode h s = 2 then (s, leWord 64 (bs.take s.bytes)) :: slotWords h t (bs.drop s.bytes) else slotWords h t bs

/-- Prefix words. -/
def pfxWords : Nat → List Byte → List (BitVec 32)
  | 0, _ => []
  | n + 1, bs => leWord 32 (bs.take 4) :: pfxWords n (bs.drop 4)

/-- R236: the parts of a bundle from its bytes. -/
def decodeBundle (bs : List Byte) : Bundle :=
  let h : Word := leWord 64 (bs.take 8)
  let r := bs.drop 8
  let np := hNpfx h
  let r1 := r.drop (4 * np)
  let mk := if hK h then some (leWord 32 (r1.take 4)) else none
  ⟨h, pfxWords np r, mk, slotWords h allSlots (if hK h then r1.drop 4 else r1)⟩

/-- Payload of a prefix word of a kind aimed at a slot, if there is one. -/
def pfxFind (ps : List (BitVec 32)) (kind : Nat) (s : Slot) : Option (BitVec 25) :=
  (ps.find? fun p => fld p 28 4 == kind && fld p 25 3 == s.idx).map (·.extractLsb' 0 25)
/-- The prefixes aimed at a slot. -/
def pfxAt (ps : List (BitVec 32)) (s : Slot) : Pfx :=
  ⟨pfxFind ps 1 s, pfxFind ps 2 s, pfxFind ps 3 s, pfxFind ps 4 s⟩
/-- R244 item 2, the words themselves: kind and slot listed, no kind twice at one slot. -/
def pfxWordsOk (h : Word) (ps : List (BitVec 32)) : Bool :=
  ps.all (fun p => 1 ≤ fld p 28 4 && fld p 28 4 ≤ 4 && fld p 25 3 ≤ 6
    && (allSlots.any fun s => s.idx == fld p 25 3 && hMode h s == 2))
  && (ps.map fun p => fld p 25 7).Nodup

/-! ### Stepping (R241) -/

/-- A word with a bit field replaced. -/
def setFld (w : BitVec 64) (lo len : Nat) (v : Nat) : BitVec 64 :=
  let m : BitVec 64 := BitVec.ofNat 64 (2 ^ len - 1) <<< lo
  (w &&& ~~~m) ||| (BitVec.ofNat 64 (v % 2 ^ len) <<< lo)
/-- A stepped field, wrapping. -/
def stepFld (w : BitVec 64) (lo len md : Nat) (d : Int) : BitVec 64 :=
  setFld w lo len (((fld w lo len : Int) + d) % (md : Int)).toNat

/-- Modulus of the VD field: masks for vcmp, scalars for vmovs, else vectors. -/
def vdMod (op : Nat) : Nat := if op = 0x18 then 8 else if op = 0x33 then 64 else 1024
/-- Modulus of the VB field: scalars in the scalar form. -/
def vbMod (w : BitVec 64) (op : Nat) : Nat :=
  if op ≤ 0x16 && op ≠ 7 && op ≠ 8 && op ≠ 0x0B && bitAt w 0 then 64
  else if op = 0x18 && bitAt w 4 then 64
  else if op = 0x32 || (op = 0x31 && bitAt w 0) then 64 else 1024
/-- Step unit of DISP in bytes: the access size for ld, st, ldfar, monarm and atom, 64 for the others. -/
def dispUnit (w : BitVec 64) : Nat :=
  let op := fld w 57 7
  if op ≤ 1 || op = 8 || op = 0x24 || op = 0x18 then laneBytes (w.extractLsb' 53 4) else 64
/-- The D field of an L word, stepped within its kind. -/
def stepLD (w : BitVec 64) (d : Int) : BitVec 64 :=
  let op := fld w 57 7
  if op = 2 || op = 3 || op = 4 || op = 5 || op = 6 || op = 7 || op = 9 || op = 0x22 then stepFld w 38 10 1024 d
  else if op = 0x30 || op = 0x31 || op = 0x35 then
    if fld w 38 4 < 8 then stepFld w 38 4 8 d
    else setFld w 38 4 (8 + (((fld w 38 4 - 8 : Nat) : Int) + d) % 4 |>.toNat)
  else stepFld w 38 6 64 d

/-- R241: a sticky word and displacement advanced by `d` step units. A VC or KB that the operation does not use stays zero (log entry 105). -/
def advanceWord (s : Slot) (w : BitVec 64) (disp : Word) (d : Int) : BitVec 64 × Word :=
  match s with
  | .V | .W =>
    let op := fld w 57 7
    let w1 := if bitAt w 7 then stepFld (stepFld w 38 10 (vdMod op) d) 8 10 1024 d else w
    let w1 := if bitAt w 7 && (op ≠ 3 && op ≠ 4) then setFld w1 8 10 (fld w 8 10) else w1
    let w2 := if bitAt w 6 then stepFld w1 28 10 1024 d else w1
    (if bitAt w 5 then stepFld w2 18 10 (vbMod w op) d else w2, disp)
  | .M =>
    if fld w 57 7 = 0x30 then (w, disp) else
    let w1 := if bitAt w 31 then stepFld w 46 2 4 d else w
    let w2 := if bitAt w 30 then stepFld w1 43 3 8 d else w1
    let w3 := if bitAt w 29 then stepFld w2 40 3 8 d else w2
    (if bitAt w 28 then (if fld w 57 7 ≤ 1 then stepFld (stepFld w3 36 4 16 d) 32 4 16 d else stepFld w3 36 4 16 d) else w3,
      disp)
  | .L =>
    let w1 := if bitAt w 20 then stepLD w d else w
    (w1, if bitAt w 21 then disp + BitVec.ofInt 64 (d * dispUnit w) else disp)
  | _ => (w, disp)

/-- How many bits of a 32-bit word the opcode table fixes for a row (spec/opcode_table.json, field `mask`). -/
def fixedBits : Instr → Nat
  | .ext _ _ _ _ _ | .addi _ _ _ | .andi _ _ _ | .ori _ _ _ | .xori _ _ _ | .lih _ _ _
  | .cmpi _ _ _ _ | .br _ _ _ | .call _ _ _ | .sld _ | .trw _ | .trr _
  | .tcw _ | .tcr _ => 7
  | .sel _ _ _ _ _ => 9
  | .cmp _ _ _ _ => 12
  | .adds _ _ _ _ | .movi _ _ | .csrr _ _ | .csrw _ _ | .csrs _ _ | .csrc _ _ => 13
  | .add _ _ _ | .sub _ _ _ | .mul _ _ _ | .mulh _ _ _ | .mulhu _ _ _ | .div _ _ _
  | .divu _ _ _ | .rem _ _ _ | .remu _ _ _ | .and _ _ _ | .or _ _ _ | .xor _ _ _
  | .andn _ _ _ | .shl _ _ _ | .shr _ _ _ | .sar _ _ _ | .min _ _ _ | .max _ _ _
  | .minu _ _ _ | .maxu _ _ _ | .setkey _ _ _ | .shli _ _ _ | .shri _ _ _ | .sari _ _ _ => 14
  | .ifence _ _ | .iswapStage _ _ | .suspend _ _ _ => 16
  | .pand _ _ _ _ _ | .por _ _ _ _ _ | .pxor _ _ _ _ _ | .pandn _ _ _ _ _ | .kwr _ | .krd _ => 18
  | .loopn _ _ => 19
  | .clz _ _ | .popc _ _ => 20
  | .brd _ | .bwr _ => 22
  | .lcw _ _ | .lcr _ _ | .sgrd _ => 23
  | .trap _ => 24
  | .jr _ | .callr _ | .bchk _ => 26
  | .tzero _ | .bclr _ => 28
  | .sgclr _ => 30
  | .ret | .ifenceAll | .iswap | .eret | .suspendDorm | .yield
  | .retire => 32
  | _ => 0

/-- The instruction the decoder reads from a bare word of the opcode table. A bare word does not say its slot class:
of the classes that decode it, the row with most fixed bits is taken (log entry 10). Bundles say the class by the slot,
and nothing but `withFetchWord` uses this choice. -/
def decodeTable (nbits w : Nat) : Option (SlotClass × Instr) :=
  let x : BitVec 64 := BitVec.ofNat 64 w
  let d (c : SlotClass) := (decodeWord c x Pfx.none).map (Prod.mk c)
  if nbits ≤ 32 then
    match d .scalar, d .aux with
    | some a, some b => if fixedBits a.2 < fixedBits b.2 then some b else some a
    | some a, none => some a
    | none, b => b
  else ((d .memory).orElse fun _ => d .vector).orElse fun _ => d .matrix

/-- The instruction of a bare word of the opcode table. -/
def decodeTableWord (nbits w : Nat) : Option Instr := (decodeTable nbits w).map Prod.snd

end Sys2Proof
end

