-- ==== Sys2Proof/Machine/State.lean ====
section
/-! DEFINITION. The state of the FX8 module as plain data: every piece of state the spec gives, sparse where it is
large, and its value after reset. -/

namespace Sys2Proof.Machine

/-! ### A context's registers -/

/-- Sticky state of one slot (R239). -/
structure Sticky where
  live : Bool
  word : BitVec 64
  disp : Word
  pfx0 : BitVec 32
  pfx1 : BitVec 32
  step : BitVec 4
  deriving DecidableEq, Repr

/-- Shape of an operand tile (R356): rows 0 is unconfigured. -/
structure Shape where
  rows : Nat
  rlen : Nat
  deriving DecidableEq, Repr

/-- Origin of an operand tile (R357). -/
inductive Origin where
  | none
  | zero
  | load (ptr stride fold : Word) (ty : BitVec 4) (chk : Bool)
  deriving DecidableEq, Repr

/-- The accumulators: cell (i, j) of accN at key 1024 N + 32 i + j, in the primary and the shadow copy (R155, R176);
precision (true for A64) and bound of each. -/
structure AccFile where
  p : SMap Word
  s : SMap Word
  prec : SMap Bool
  ba : SMap (BitVec 32)
  deriving DecidableEq, Repr

/-- What the control operation of a bundle has read at its issue, as it was before the bundle: S[A] of an ifence, V[S] and the loop counts of a
loopn (R9, R263, R285). -/
structure PostIn where
  addr : Word
  v : VReg
  lc : SMap (BitVec 32)
  deriving DecidableEq, Repr
def PostIn.zero : PostIn := ⟨0, 0, []⟩
/-- What the return from the local handler needs of the bundle that the handler interrupted (R292, R293): the target of its
transfer, its repeat counter, its control operation with what that has read, the CSRs it had written, as they were before it, and whether its irrevocable
operations have been performed already (R104). -/
structure Cut where
  tgt : Option Word
  rep : BitVec 6
  post : Option Instr
  inp : PostIn
  old : List (Nat × Word)
  reissue : Bool
  deriving DecidableEq, Repr
def Cut.none : Cut := ⟨Option.none, 0, Option.none, .zero, [], false⟩

/-- The per-context state a checkpoint duplicates or restores (R404): registers, sticky and loop state, tile state,
per-context CSRs, and the bundle address. `ev` is the accumulators as an engine operation reads them (R377), in program
order; `acc` as every other reader sees them. -/
structure Arch where
  sr : SMap Word
  pr : BitVec 16
  mr : SMap Word
  vr : SMap VReg
  kr : SMap (BitVec 128)
  lc : SMap (BitVec 32)
  lbnd : SMap (BitVec 32)
  lstr : SMap (BitVec 16)
  body : Word
  llen : BitVec 4
  lpos : BitVec 4
  dims : BitVec 3
  sticky : SMap Sticky
  rep : BitVec 6
  pc : Word
  ton : Bool
  shape : SMap Shape
  tile : SMap (BitVec 1152)
  origin : SMap Origin
  bt : SMap (BitVec 32)
  acc : AccFile
  ev : AccFile
  sgp : SMap Word
  sgs : SMap Word
  tfoot : BitVec 8
  ctxtime : Word
  bthr : Word
  besc : Word
  mcdef : Word
  waitctl : Word
  driftthr : Word
  trapcause : Word
  trappc : Word
  trapslot : Word
  donemask : Word
  traparg : Word
  trapvec : Word
  ctxmode : Word
  cut : Cut
  deriving DecidableEq, Repr

/-! ### Results in flight -/

/-- Bits written in one row of an operand tile. -/
structure RowW where
  row : Nat
  lo : Nat
  len : Nat
  v : Nat
  deriving DecidableEq, Repr

/-- One register write of a result (the destinations of R409). `accw` stores binary32 words in the precision the
accumulator has where they land (R365); `wide` that it was issued under escalation, where an A32 accumulator holds binary64
values (R169, R357). -/
inductive Write where
  | s (n : Nat) (v : Word)
  | p (n : Nat) (b : Bool)
  | m (n : Nat) (v : Word)
  | v (n : Nat) (x : VReg)
  | k (n : Nat) (en : BitVec 16) (x : BitVec 128)
  | lc (n : Nat) (x : BitVec 32)
  | tile (n : Nat) (rs : List RowW) (bt : Option (BitVec 32)) (org : Option Origin)
  | acc (n : Nat) (cells : List (Nat × Word × Word)) (prec : Option Bool) (ba : Option (BitVec 32)) (fp fs : Word)
  | accw (n : Nat) (cells : List (Nat × BitVec 32)) (wide : Bool)
  | bnd (t : Nat) (x : BitVec 32)
  | sgz (n : Nat)
  deriving DecidableEq, Repr

/-- A result in flight: its due cycle, its place in program order, the operation it belongs to, whether it has
arrived, for a result of the matrix engine the core cycle at which it arrives (R197, R198), and what it writes (R196, R403). -/
structure Pend where
  due : Nat
  seq : Nat
  pc : Word
  slot : Slot
  k : Nat
  arrived : Bool
  ready : Nat
  ws : List Write
  deriving DecidableEq, Repr

/-! ### Memory accesses in the queues -/

/-- A translation: physical address, memory type, tag checks, size of the walker's leaf that gave it (0: an extent or the local
form), whether an invalidation has marked it for re-translation, and whether the bytes of an early-visible store stand in the core's
line at it (R28, R29, R108, R127). -/
structure Tr where
  pa : Nat
  mt : BitVec 2
  tc : Bool
  leaf : Nat
  marked : Bool
  early : Bool
  deriving DecidableEq, Repr

/-- A piece of an access (R13): pointer, length, offset of its bytes in the access's data. -/
structure Piece where
  ptr : Word
  len : Nat
  off : Nat
  tr : Option Tr
  deriving DecidableEq, Repr

/-- What an entry of a queue is, with what its issue fixed (R98, R329). -/
inductive EKind where
  | ld (d w : Nat) (sgn : Bool)
  | vld (d w : Nat) (act : BitVec 64) (old : VReg)
  | tagrd (d : Nat)
  | monarm (d w : Nat) (sgn : Bool)
  | tld (t c rows rlen : Nat) (ty : BitVec 4) (chk : Bool) (ptr stride : Word) (reread mc : Bool)
  | tcfg
  | trest (org : List (Nat × Word × Word × Word × BitVec 5)) (blk : List Byte)
  | reload (org : List (Nat × Word × Word × Word × BitVec 5))
  | pref (fn : BitVec 4)
  | waitp (q : Bool) (start : Nat) (listed : Bool) (cyc : Nat)
  | st
  | tst (fold : Word) (img rlen : Nat)
  | tagset (tag : BitVec 4)
  | cwb
  | atom (op ty : BitVec 4) (d : Nat) (x cmp : Word) (tries : Nat)
  | arrive
  | ownx (new : BitVec 16)
  | berth (hdl arg : Word) (n : Nat)
  | mcast (mask : Word) (ldseq img : Nat)
  | tsend (fold : Word) (img rlen : Nat) (berth : Option (Word × Word)) (cw : Option Nat)
  | trigger
  | spawn (q : BitVec 12)
  | launch (area : Nat)
  | gssnext (d c : Nat)
  | susp (c : BitVec 4) (rval : BitVec 32)
  deriving DecidableEq, Repr

/-- An entry of a queue or of the pound: place in program order, operation it belongs to, kind, pieces, bytes, order; whether it
has left its queue (R98; of a tcfg or trest, whether its bytes are read), the line it is parked on and whether it was woken (R30, R128);
its place among what its core has sent (R105), whether it waits at another core's inbox or at a bank (R51, R67), the core cycle from which a
WAITP that found the list full is sent again (R342), the line it last was parked on (R128), the bytes of pieces already read
(R96), whether one of those failed its tag check under TAGPOL 01 (R86), and whether it is some of the pieces of a store whose others have gone
their own way (R50, R333). -/
structure Entry where
  seq : Nat
  pc : Word
  slot : Slot
  k : Nat
  kind : EKind
  pieces : List Piece
  data : List Byte
  acq : Option (BitVec 3)
  rel : Option (BitVec 3)
  left : Bool
  park : Option Nat
  woken : Bool
  unmon : Bool
  reported : Bool
  wpDone : Bool
  sent : Nat
  away : Bool
  retryAt : Nat
  was : Option Nat
  got : List (Nat × List Byte)
  void : Bool
  part : Bool
  deriving DecidableEq, Repr

/-- A QMARK or FENCE in both queues (R101, R114). -/
structure Mark where
  seq : Nat
  qmark : Bool
  acq : Bool
  rel : Bool
  scope : BitVec 3
  deriving DecidableEq, Repr

/-! ### Contexts -/

/-- What a context slot is doing (R195, R64, R399). `ending` carries the reason of R211. -/
inductive Run where
  | vacant
  | live
  | waiting
  | stopped
  | violation
  | dormant
  | ending (reason : Nat)
  deriving DecidableEq, Repr

/-- The line monitor of a context (R345, R346). -/
inductive Mon where
  | off
  | armed (line : Nat)
  | fired
  | lost
  deriving DecidableEq, Repr

/-- A valid extent (R25). -/
structure Extent where
  vbase : Nat
  pbase : Nat
  len : Nat
  lease : BitVec 16
  mt : BitVec 2
  ctl : Bool
  tc : Bool
  x : Bool
  w : Bool
  rd : Bool
  deriving DecidableEq, Repr

/-- A dispute of step-compare (R180): the disputed instruction's accumulator, its differing rows (lowest first), the
exact cells of every row it wrote, its folds and its exact bound. -/
structure Dispute where
  acc : Nat
  rows : List Nat
  exact : List (Nat × Word)
  prim : List (Nat × Word)
  shad : List (Nat × Word)
  ba : BitVec 32
  seq : Nat
  pc : Word
  deriving DecidableEq, Repr

/-- A pending MONWAIT (R347). -/
structure MonWait where
  d : Nat
  seq : Nat
  start : Nat
  limit : Nat
  deriving DecidableEq, Repr

/-- A context slot of a core. `prior` is what a held context goes back to at its resumption. Of the bundle being issued: `npc` is the address after it, `tgt` the target of its transfer,
`post` its control operation, whose effect follows the last slot (R281), `postIn` what a loopn or ifence has read, `opened` that its present issue has begun, `done` the
slots of that issue that have issued, `taken` the context cycles by which CTXTIME stands past the cycle of that issue, and `owed` those
that its end adds beyond its own (R242, R360), `inBody` that it lies in the body of the active nest (R264), `csrOld` the CSRs that
it has written, as they were before it (R9). `bpSkip` is the breakpoints that have stopped the present issue (R400), `stepDue` that
the bundle of a step has completed (R416). `irr` says that the irrevocable operation of the checkpoint bundle has issued (R104), `fresh` that the retirement at
the bundle has succeeded and the bundle has not issued since (R138, R407); `fetchWait` is the line whose fill it waits for, `fpark`
and `fwoken` the table line that fill is parked on and whether it was written.
`wdCnt` is the core cycles
without progress as the watchdog counts them (R229), `killCnt` the replay
entries a kill discarded. Released stores with a number from `sqHold` on are held (R93, R418). Of the interval, `wr32` is the accumulators written at A32, `esc` those whose
latest write in engine order was one under escalation, `escL` those whose landed cells are of such a write, `escSeqs` the places in program
order of the engine's own (R169). `stepCmp` says that the interval is re-executed in step-compare
mode, `scSettled` that a difference has been settled in it (R180), `bndStop` that the bound test has stopped the context before its
interval retires (R171). -/
structure Ctx where
  run : Run
  prior : Run
  a : Arch
  ck : Arch
  pend : List Pend
  ckPend : List Pend
  reissue : Bool
  retired : Bool
  seq : Nat
  ckSeq : Nat
  lq : List Entry
  pound : List Entry
  sq : List Entry
  rq : List Entry
  sqHold : Option Nat
  marks : List Mark
  undo : List Nat
  implAt : Option Nat
  overflowed : Bool
  mon : Mon
  monSeq : Nat
  monwait : Option MonWait
  wrAcc : BitVec 4
  wrBnd : BitVec 4
  wr32 : BitVec 4
  esc : BitVec 4
  escL : BitVec 4
  escSeqs : List Nat
  stepCmp : Bool
  scSettled : Bool
  bndStop : Bool
  dispute : Option Dispute
  preq : Option Nat
  forceReq : Bool
  tgt : Option Word
  post : Option Instr
  postIn : PostIn
  done : Nat
  taken : Nat
  owed : Nat
  csrOld : List (Nat × Word)
  inBody : Bool
  irr : Bool
  fresh : Bool
  npc : Word
  opened : Bool
  fetchWait : Option Nat
  fpark : Option Nat
  fwoken : Bool
  ckCount : Nat
  wdCnt : Nat
  killCnt : Nat
  triggered : Bool
  recd : SMap Word
  rpa : Nat
  ext : List Extent
  ptroot : Nat
  asid : BitVec 16
  lw : BitVec 2
  resno : BitVec 16
  firstDone : Bool
  readyFor : Nat
  yieldAt : Option Nat
  yieldSet : List Nat
  markAt : Option Nat
  prevIss : Option Nat
  waitWhy : Nat × Word
  bpSkip : BitVec 4
  haltReq : Bool
  stepReq : Bool
  stepDue : Bool
  rollReq : Bool
  deriving DecidableEq, Repr

/-! ### Cores, clusters, engines, dies -/

/-- An instruction-store line (R284). -/
structure ILine where
  half : Bool
  asid : BitVec 16
  line : Nat
  bytes : VReg
  deriving DecidableEq, Repr

/-- A FIFO bank's queue (R50 to R52): entries from the committed head on, how many of them are popped tentatively, and
pushes waiting, each with the slot key of its context and its place in program order. -/
structure Fifo where
  q : List (List Byte)
  tent : Nat
  waiting : List (Nat × Nat × List Byte)
  deriving DecidableEq, Repr

/-- A berth message (R63). -/
structure Berth where
  off : Nat
  bytes : List Byte
  hdl : Word
  arg : Word
  sender : Word
  src : Option (Nat × Nat)
  deriving DecidableEq, Repr

/-- A physical fault of a matrix engine: one bit of one cell it writes is stuck (R178, R454). -/
structure Stuck where
  shadow : Bool
  row : Nat
  col : Nat
  bit : Nat
  one : Bool
  deriving DecidableEq, Repr

/-- A known-answer run (R186, R389). -/
structure Kat where
  ctx : Nat
  done : Nat
  prim : Word
  shad : Word
  want : Word
  pc : Word
  deriving DecidableEq, Repr

/-- What the contexts of a core share (chapter 02, R199, R284). `bankSince` holds, for a bank being switched, the place in program
order of each context at the write (R53), `evts` the events that the core holds while its die's queue is full (R210), `sent` how many entries its contexts have sent on its channels (R105), `cpoison` the lines of
its local cache that are poisoned (R79, R80), `sampled` the core cycle of its last samples (R425). -/
structure Core where
  cyc : Word
  capr : BitVec 10
  bankmode : SMap Word
  bankSince : SMap Nat
  fifo : SMap Fifo
  bankassign : Word
  slottab : Word
  fh : Bool
  istore : List ILine
  stage : List (Nat × Nat)
  cache : SMap VReg
  cpoison : List Nat
  sent : Nat
  inbox : List Berth
  evts : List Word
  berthq : List Berth
  engFree : Nat
  stuck : List Stuck
  kats : List Kat
  last : Nat
  lastRan : Bool
  sampled : Option Nat
  deriving DecidableEq, Repr

/-- A cached translation of a walker (R29, R31). -/
structure Tlb where
  asid : BitVec 16
  vbase : Nat
  size : Nat
  pbase : Nat
  mt : BitVec 2
  tc : Bool
  x : Bool
  w : Bool
  rd : Bool
  dirty : Bool
  deriving DecidableEq, Repr

/-- What a cluster shares: the walker's cache and monitored lines (R30), and the arbiter's queue: the core cycle of each request,
its core and its context (R181). -/
structure Cluster where
  tlb : List Tlb
  mons : List Nat
  arb : List (Nat × Nat × Nat)
  deriving DecidableEq, Repr

/-- The issuer of a copy-engine descriptor (R352). -/
inductive Issuer where
  | super (host : Bool)
  | ctx (n c : Nat) (seq : Nat) (asid : BitVec 16) (ptroot : Nat) (ownid : BitVec 16) (guard : Word) (dbg : Bool)
  deriving DecidableEq, Repr

/-- An image of a COPYSC still to be written (R76): how many of its bytes are written, the bytes of the image and of the sidecar that follows
them, or of the image alone where the refold has failed four times (`good` false). -/
structure CeOut where
  pos : Nat
  data : List Byte
  good : Bool
  deriving DecidableEq, Repr

/-- A copy engine: issuer of each submitted descriptor (by ring index), the page-table line it is parked
on, the pointer of the piece that is parked and whether it found no monitor free (R30, R354), the status of a descriptor that only lacks
its completion word; of a COPYSC, how many images are done and what is still to be written of the present one (R76). -/
structure Engine where
  issuers : List (Nat × Issuer)
  park : Option Nat
  parkAt : Word
  woken : Bool
  unmon : Bool
  leaseAsked : Bool
  fin : Option Nat
  images : Nat
  out : Option CeOut
  deriving DecidableEq, Repr

/-- A lease (R33): its number, its range and the records it is held for. -/
structure Lease where
  num : Nat
  base : Nat
  len : Nat
  holders : List Nat
  deriving DecidableEq, Repr

/-- A record in a distributor's hands: address, queue, ready time, the launch instance it belongs to (its die, area and
node), the die it left (R217), whether its phase watch is placed (R192), the dies that had no room (8: the core it left) and whether all
had none, the cluster of its group (R223), its residencies that the watchdog ended without progress (R229), a pre-emption
outstanding for it (R218), where another die is involved, that die, whether it has triggered (R139), and the die's core cycle from which its
phase watch is placed again (R192). -/
structure Held where
  rpa : Nat
  q : Nat
  t0 : Nat
  inst : Option (Nat × Nat × Nat)
  left : Option Nat
  watch : Bool
  tried : List Nat
  noroom : Bool
  clus : Option Nat
  wd : Nat
  preOut : Option (Nat × Nat)
  remote : Option Nat
  trig : Bool
  retryAt : Nat
  deriving DecidableEq, Repr

/-- A record placed: where, its effective priority, its dispatch time, the watchdog's stage, the reason of a kill, the checkpoint
of the context (`ckSeq`) at the watchdog's last action, whether a CKPT event has counted a checkpoint, and, of a guest whose end its
serving die has not acted on yet, the replay entries that its kill discarded (R207, R218, R229, R234). -/
structure Placed where
  held : Held
  n : Nat
  c : Nat
  resno : Nat
  e : Nat
  t0 : Nat
  stage : Nat
  killWhy : Nat
  ckAt : Nat
  prog : Bool
  gone : Option Nat
  deriving DecidableEq, Repr

/-- A node of a launch instance: its descriptor (R222), whether it was started, records triggered and ended, and whether it
ends in error. -/
structure Node where
  q : Nat
  count : Nat
  first : Nat
  template : Nat
  group : Nat
  preds : Word
  started : Bool
  trig : Nat
  ended : Nat
  bad : Bool
  deriving DecidableEq, Repr

/-- A launch instance (R223, R225): `causes` the refused, killed and reset bits, `pending` that it waits on an exclusive
graph, `word` the header word that the launch has pinned (R226). -/
structure Inst where
  area : Nat
  hdr : Nat
  dbg : Bool
  nodes : List Node
  retired : Nat
  causes : BitVec 3
  pending : Bool
  word : Word
  deriving DecidableEq, Repr

/-- Lines that a distributor watches (R208): one for each enabled queue, one for each reserved entry not yet written, one for each
record waiting on RCOND 2 or 3; each with what its wake acts on. -/
inductive Watch where
  | queue (q : Nat)
  | entry (q : Nat)
  | rec' (rpa : Nat)
  deriving DecidableEq, Repr

/-- A hart of a distributor (R206): its pc and its integer registers. -/
structure Hart where
  pc : Word
  x : SMap Word
  deriving DecidableEq, Repr

/-- A request of a context that a distributor has received and its harts have not acted on yet (R210, R301, R302). -/
inductive InReq where
  | spawn (q rpa : Nat) (dbg : Bool)
  | launch (hdr area : Nat) (dbg : Bool)
  deriving DecidableEq, Repr

/-- How a distributor holds a record that is not placed: ready, waiting on its condition, or refused with an AUX that waits for the log
(R210, R233). -/
inductive Hold where
  | ready
  | waits
  | refused (aux : Nat)
  deriving DecidableEq, Repr
/-- What a compute die's distributor and synchronisation engine hold (chapter 09, R33, R39). `check` is the lease check in
progress, `revokes` the records asked to leave for a lease, each with the time, `unasked` those of them whose pre-emption is still to be
requested; `invs` the invalidations being applied; `mread` the mailbox words that harts have read and not acted on, the oldest first, `outbox` the
writes of this die's harts that wait at a full mailbox, each with its die, its register and its value, `answered` the records of a group whose PLACE words this die has already
answered (R223); `offers` the dispatches not yet answered, `placed` the records this die serves, `guests` the records it holds for other
dies; `resets` the queues being reset (R230); `harts` its harts, `image` the microcode image in their private SRAM
and `sram` the rest of that, by byte (R206, R209); `inreq` the requests received while the harts stand (R210); `reissue` the records whose
forced pre-emption came after an irrevocable operation of their next bundle (R104, R407); `holdArea` the records
of a quiesced distributor, with how it held each (R210); `mons` the lines under the die's monitors, `polls` those that are polled,
the longest polled first (R208); `logq` the log records of events that have already happened, `refq` the refusals that wait for the log,
each with its AUX, or 0 where it is logged already (R233), and `owed` what the counters of queues are still to be raised by, each with its
queue and its number (R235); `firstDbg` the DBG of a record's first dispatch, by its address and TASKID
(R194); `lastCore` the core a record left, plus one; `qcfg` a queue's aging and watchdog word as its last wake found it (R213); `service`
is 0 before bring-up, 1 reduced and 2 full (R435, R436). -/
structure Die where
  leases : List Lease
  check : Option (Nat × Nat × Bool)
  revokes : List (Nat × Nat)
  unasked : List Nat
  invs : List (BitVec 3 × BitVec 16 × Nat)
  ready : List Held
  waitl : List Held
  offers : List Placed
  remote : List Held
  placed : List Placed
  guests : List Placed
  insts : List Inst
  evt : List Word
  mbox : List Word
  mread : List Word
  outbox : List (Nat × Nat × Word)
  answered : List Nat
  resets : List Nat
  harts : SMap Hart
  image : List Byte
  sram : SMap Byte
  inreq : List InReq
  reissue : List Nat
  mons : List Watch
  polls : List Watch
  logq : List (List Word)
  refq : List (Held × Nat)
  owed : List (Nat × Nat × Nat)
  holdArea : List (Hold × Held)
  lastCore : SMap Nat
  accepted : Bool
  firstDbg : List ((Nat × Nat) × Bool)
  qcfg : SMap Word
  service : Nat
  deriving DecidableEq, Repr

/-- One direction of a link with the Weator flit protocol (R133, R430). Of its receiver: the sequence number it expects, and the replays of
that flit. Of its sender: the oldest flit in the replay buffer, which is not acknowledged, the flit it sends next, and the first one it has
not sent yet; the buffer holds the flits between the oldest and that one. -/
structure Link where
  want : Nat
  replays : Nat
  acked : Nat
  next : Nat
  sent : Nat
  deriving DecidableEq, Repr

/-- An IDE stream (R429). Of the device as transmitter: its key slot, the slot not yet retired, the flits in the replay buffer with
their slots, a rollover that waits, the next sequence number. As receiver: its key slot, the first flit received under it, the
next flit in order, the flit that has been requested again, and for each slot one more than the highest flit taken under it. -/
structure Ide where
  slot : BitVec 1
  old : Option (BitVec 1)
  unacked : List (Nat × BitVec 1)
  queued : Option (BitVec 1)
  nextSeq : Nat
  rxSlot : BitVec 1
  rxFrom : Nat
  rxNext : Nat
  badAt : Option Nat
  rxTop : SMap Nat
  deriving DecidableEq, Repr

/-- A completion that the module returns to the host. -/
inductive Cpl where
  | data (bs : List Byte)
  | abort
  | unsupported
  deriving DecidableEq, Repr

/-- A request of the host (R427, R428) at an offset of BAR0 or BAR2. -/
inductive HostReq where
  | write (rid : BitVec 16) (bar2 : Bool) (off : Nat) (bytes : List Byte) (relaxed : Bool)
  | read (rid : BitVec 16) (bar2 : Bool) (off len : Nat)
  | atom (rid : BitVec 16) (bar2 : Bool) (off : Nat) (op : HostAtom) (wide : BitVec 2) (v cmp : Word)
  deriving DecidableEq, Repr

/-- The package (chapter 18): whether the firmware runs and the host link is trained, links by number (a link's two directions
at 2 l and 2 l + 1, of a towpath link the one received first), IDE streams, the host's requests that wait in order of receipt (R53, R120), host functions that are stopped with
their held writes (R93), completions returned to the host, measurements served with their signatures, events reported over MCTP to
the host and over I3C to the baseboard controller, and the debug record of R426. -/
structure Pkg where
  booted : Bool
  pcie : Bool
  weator : SMap Link
  towpath : SMap Link
  ide : SMap Ide
  hostq : List HostReq
  hostStopped : List Nat
  hostHeld : List (Nat × Nat × List Byte)
  hostCpl : List (Nat × Cpl)
  spdm : List (List Byte × List Byte)
  mctp : List Word
  i3c : List Word
  everDbg : Bool
  dbgCount : Nat
  deriving DecidableEq, Repr

/-- Who takes the next step: core, context and slot; `trapped` says that the slot has raised a cause (log entry 1). -/
structure Focus where
  core : CoreN
  ctx : CtxN
  slot : Slot
  trapped : Bool
  deriving DecidableEq, Repr

/-- The module. Memory by physical address (R14); `gran` the tag and history of each granule (R83), [3:0] the tag;
`poison` the poisoned lines (R79); `ecc` raw symbol errors of a line of HBM (R78), 8 for a line that was reported; `l2` the lines of HBM
that the home's L2 or the LLC holds (R58 to R60), [1] dirty; `llcOld` the window ways of a sill die before a change in progress (R61); `cregs` the control-space registers by
physical address, where they differ from their reset value. -/
structure State where
  mem : List Host.Cell
  gran : SMap (BitVec 16)
  poison : SMap Bool
  ecc : SMap Nat
  l2 : SMap (BitVec 2)
  cregs : SMap Word
  llcOld : SMap Nat
  cores : SMap Core
  ctxs : SMap Ctx
  clusters : SMap Cluster
  engines : SMap Engine
  dies : SMap Die
  pkg : Pkg
  agenda : List (Focus × Instr)
  foc : Focus
  freeCtr : Nat
  deriving DecidableEq, Repr

/-! ### Reset values -/

/-- No accumulator cell but +0, A32, bound 0. -/
def AccFile.zero : AccFile := ⟨[], [], [], []⟩
/-- A slot at rest. -/
def Sticky.rest : Sticky := ⟨false, 0, 0, 0, 0, 0⟩
/-- R166: EN 1, NFOK 0, FLOOR 0x80, EXP 0xF0. -/
def bthrReset : Word := 0x28000F0
/-- R203. -/
def waitctlReset : Word := 0x4000

/-- The registers of a context slot after reset, and the state of R193 but for s5 to s7 (log entry 3). -/
def Arch.zero : Arch where
  sr := []
  pr := 0
  mr := []
  vr := []
  kr := []
  lc := []
  lbnd := []
  lstr := []
  body := 0
  llen := 0
  lpos := 0
  dims := 0
  sticky := []
  rep := 0
  pc := 0
  ton := false
  shape := []
  tile := []
  origin := []
  bt := []
  acc := .zero
  ev := .zero
  sgp := []
  sgs := []
  tfoot := 0
  ctxtime := 0
  bthr := bthrReset
  besc := 0
  mcdef := 0
  waitctl := waitctlReset
  driftthr := 0
  trapcause := 0
  trappc := 0
  trapslot := 0
  donemask := 0
  traparg := 0
  trapvec := 0
  ctxmode := 0
  cut := .none

/-- A vacant context slot. -/
def Ctx.zero : Ctx where
  run := .vacant
  prior := .live
  a := .zero
  ck := .zero
  pend := []
  ckPend := []
  reissue := false
  retired := false
  seq := 0
  ckSeq := 0
  lq := []
  pound := []
  sq := []
  rq := []
  sqHold := none
  marks := []
  undo := []
  implAt := none
  overflowed := false
  mon := .off
  monSeq := 0
  monwait := none
  wrAcc := 0
  wrBnd := 0
  wr32 := 0
  esc := 0
  escL := 0
  escSeqs := []
  stepCmp := false
  scSettled := false
  bndStop := false
  dispute := none
  preq := none
  forceReq := false
  tgt := none
  post := none
  postIn := .zero
  done := 0
  taken := 0
  owed := 0
  csrOld := []
  inBody := false
  irr := false
  fresh := false
  npc := 0
  opened := false
  fetchWait := none
  fpark := none
  fwoken := false
  ckCount := 0
  wdCnt := 0
  killCnt := 0
  triggered := false
  recd := []
  rpa := 0
  ext := []
  ptroot := 0
  asid := 0
  lw := 0
  resno := 0
  firstDone := false
  readyFor := 0
  yieldAt := none
  yieldSet := []
  markAt := none
  prevIss := none
  waitWhy := (0, 0)
  bpSkip := 0
  haltReq := false
  stepReq := false
  stepDue := false
  rollReq := false

/-- A core after reset: every bank a scratchpad (R46), CAPR 512 (log entry 5), stores and queues empty. -/
def Core.zero : Core where
  cyc := 0
  capr := 512
  bankmode := []
  bankSince := []
  fifo := []
  bankassign := 0
  slottab := 0
  fh := false
  istore := []
  stage := []
  cache := []
  cpoison := []
  sent := 0
  inbox := []
  evts := []
  berthq := []
  engFree := 0
  stuck := []
  kats := []
  last := 0
  lastRan := false
  sampled := none

def Fifo.zero : Fifo := ⟨[], 0, []⟩
def Hart.zero : Hart := ⟨0, []⟩
def Cluster.zero : Cluster := ⟨[], [], []⟩
def Engine.zero : Engine := ⟨[], none, 0, false, false, false, none, 0, none⟩

def Die.zero : Die where
  leases := []
  check := none
  revokes := []
  unasked := []
  invs := []
  ready := []
  waitl := []
  offers := []
  remote := []
  placed := []
  guests := []
  insts := []
  evt := []
  mbox := []
  mread := []
  outbox := []
  answered := []
  resets := []
  harts := []
  image := []
  sram := []
  inreq := []
  reissue := []
  mons := []
  polls := []
  logq := []
  refq := []
  owed := []
  holdArea := []
  lastCore := []
  accepted := false
  firstDbg := []
  qcfg := []
  service := 0

def Link.zero : Link := ⟨0, 0, 0, 0, 0⟩
def Ide.zero : Ide := ⟨0, none, [], none, 0, 0, 0, 0, none, []⟩

def Pkg.zero : Pkg where
  booted := false
  pcie := false
  weator := []
  towpath := []
  ide := []
  hostStopped := []
  hostHeld := []
  hostq := []
  hostCpl := []
  spdm := []
  mctp := []
  i3c := []
  everDbg := false
  dbgCount := 0

/-- The module right after reset: every register at the value the spec gives (control-space registers not listed read
their reset value), every context slot vacant, memory with nothing listed. -/
def State.reset : State where
  mem := []
  gran := []
  poison := []
  ecc := []
  l2 := []
  cregs := []
  llcOld := []
  cores := []
  ctxs := []
  clusters := []
  engines := []
  dies := []
  pkg := .zero
  agenda := []
  foc := ⟨0, 0, .A, false⟩
  freeCtr := 0

/-- No step of this model faults: every cause the spec names is an exception it describes, taken as a next state. -/
inductive Fault where
  deriving DecidableEq, Repr

/-- The one refusal. -/
inductive Refusal where
  /-- The dispatcher answers it for an instruction that has no meaning yet; safe: nothing is claimed of it. -/
  | notModelled (mnemonic : String)
  deriving DecidableEq, Repr

end Sys2Proof.Machine
end

