-- ==== Sys2Proof/Machine/Parts.lean ====
section
/-! DEFINITION. The parts of the module: its cores, contexts, dies and engines, the control-space registers, the memory bytes, the
physical map and home dies (R14 to R20), error correction and poison at the home (R78, R79, R82), and the rings. -/

namespace Sys2Proof.Machine

/-! ### Parts of the module -/

/-- Key of a context slot. -/
def ctxKey (n : CoreN) (c : CtxN) : Nat := 4 * n.toNat + c.toNat
def State.ctx (s : State) (n : CoreN) (c : CtxN) : Ctx := mget .zero s.ctxs (ctxKey n c)
def State.setCtx (s : State) (n : CoreN) (c : CtxN) (x : Ctx) : State :=
  { s with ctxs := mset .zero s.ctxs (ctxKey n c) x }
def State.core (s : State) (n : CoreN) : Core := mget .zero s.cores n.toNat
def State.setCore (s : State) (n : CoreN) (x : Core) : State := { s with cores := mset .zero s.cores n.toNat x }
def State.die (s : State) (d : Nat) : Die := mget .zero s.dies d
def State.setDie (s : State) (d : Nat) (x : Die) : State := { s with dies := mset .zero s.dies d x }
def State.cluster (s : State) (k : Nat) : Cluster := mget .zero s.clusters k
def State.setCluster (s : State) (k : Nat) (x : Cluster) : State :=
  { s with clusters := mset .zero s.clusters k x }
def State.engine (s : State) (e : Nat) : Engine := mget .zero s.engines e
def State.setEngine (s : State) (e : Nat) (x : Engine) : State := { s with engines := mset .zero s.engines e x }
/-- The context in focus. -/
def State.cx (s : State) : Ctx := s.ctx s.foc.core s.foc.ctx
def State.setCx (s : State) (x : Ctx) : State := s.setCtx s.foc.core s.foc.ctx x
/-- Change the architectural state of a context. -/
def State.mapArch (s : State) (n : CoreN) (c : CtxN) (f : Arch → Arch) : State :=
  s.setCtx n c { s.ctx n c with a := f (s.ctx n c).a }

/-- Die of a core (R17). -/
def dieOf (n : CoreN) : Nat := n.toNat / 256
/-- Cluster of a core, module-wide: 4 DIEID + CLID. -/
def clusterOf (n : CoreN) : Nat := n.toNat / 64
/-- Whether a core is a G-core (R1). -/
def isG (n : CoreN) : Bool := 4 ≤ dieOf n
def coreNo (k : Nat) : CoreN := BitVec.ofNat 11 k
def ctxNo (k : Nat) : CtxN := BitVec.ofNat 2 k
def allCtx : List CtxN := [0, 1, 2, 3]

/-! ### Control-space registers (R20) -/

/-- Base of control space. -/
def ctlBase : Nat := 0x7FFFF00000000
/-- Physical address of a register of a compute die's block. -/
def dieReg (d off : Nat) : Nat := ctlBase + d * 0x10000000 + off
/-- Physical address of a register of a sill die's block. -/
def sillReg (i off : Nat) : Nat := 0x7FFFF80000000 + i * 0x8000000 + off
/-- Verification registers of a core (R185). -/
def verReg (n : CoreN) (off : Nat) : Nat := dieReg (dieOf n) (0x200000 + 0x40 * (n.toNat % 256) + off)
/-- Debug block of a context slot (R414). -/
def dbgReg (n : CoreN) (c : CtxN) (off : Nat) : Nat :=
  dieReg (dieOf n) (0x500000 + 0x800 * (n.toNat % 256) + 0x200 * c.toNat + off)
/-- Counters of a core (R424). -/
def pmcReg (n : CoreN) (off : Nat) : Nat := dieReg (dieOf n) (0x580000 + 0x80 * (n.toNat % 256) + off)
/-- Registers of a copy engine (R352). -/
def ceReg (e off : Nat) : Nat := dieReg (e / 16) (0x600000 + 0x40 * (e % 16) + off)
/-- A barrier object (R339). -/
def barReg (d i : Nat) : Nat := dieReg d (0x6000000 + 8 * i)
/-- Word of an ownership entry (R88). -/
def ownReg (d i w : Nat) : Nat := dieReg d (0x8000000 + 16 * i + 8 * w)

/-- Reset value of a control-space register, where it is not 0. -/
def regReset (pa : Nat) : Word :=
  let o := pa - ctlBase
  let off := o % 0x10000000
  if pa < ctlBase then 0
  else if o < 0x80000000 then
    if off = 0x100028 then 0x100000
    else if 0x200000 ≤ off && off < 0x204000 && off % 0x40 = 0 then 0x400002
    else if off = 0x300000 then 4
    else if 0x500000 ≤ off && off < 0x580000 && 0x20 ≤ off % 0x200 && off % 0x200 < 0x40 then 0xE000000000000000
    else if 0x600000 ≤ off && off < 0x600400 && off % 0x40 = 0x18 then 0x80
    else if o = 0x700010 then 4000
    else 0
  else if (o - 0x80000000) % 0x8000000 = 0x2000 then 1 else 0
def State.creg (s : State) (pa : Nat) : Word := mget (regReset pa) s.cregs pa
def State.setCreg (s : State) (pa : Nat) (v : Word) : State :=
  { s with cregs := mset (regReset pa) s.cregs pa v }
/-- Set some bits of a register. -/
def State.orCreg (s : State) (pa : Nat) (v : Word) : State := s.setCreg pa (s.creg pa ||| v)
/-- Clear some bits of a register. -/
def State.clrCreg (s : State) (pa : Nat) (v : Word) : State := s.setCreg pa (s.creg pa &&& ~~~v)
/-- Replace a field of a word. -/
def putFld (w : Word) (lo len v : Nat) : Word := setFld w lo len v

/-! ### Memory bytes -/

def State.rdByte (s : State) (pa : Nat) : Byte := mget 0 s.mem pa
def State.rdBytes (s : State) (pa : Nat) : Nat → List Byte
  | 0 => []
  | n + 1 => s.rdByte pa :: State.rdBytes s (pa + 1) n
def State.rd64 (s : State) (pa : Nat) : Word := leWord 64 (s.rdBytes pa 8)
def State.wrByte (s : State) (pa : Nat) (b : Byte) : State := { s with mem := mset 0 s.mem pa b }
def State.wrBytes (s : State) (pa : Nat) : List Byte → State
  | [] => s
  | b :: t => State.wrBytes (s.wrByte pa b) (pa + 1) t

/-- Wake what waits on a write to a 64-byte line: context monitors fire (R345), parked accesses wake (R30), and where a monitor of
their walker fires, so do the unmonitored ones (R128). -/
def wakeCtx (line : Nat) (fired : Bool) (x : Ctx) : Ctx :=
  let w (e : Entry) : Entry := if e.park = some line || (fired && e.unmon) then { e with woken := true } else e
  { x with
    mon := if x.mon = .armed line then .fired else x.mon
    lq := x.lq.map w
    pound := x.pound.map w
    sq := x.sq.map w
    rq := x.rq.map w
    fwoken := x.fwoken || x.fpark = some line }
def State.wakeLine (s : State) (line : Nat) : State :=
  let fired (key : Nat) : Bool := (s.cluster (key / 256)).mons.contains line
  let s := s.ctxs.foldl (fun s kv => { s with ctxs := mset .zero s.ctxs kv.1 (wakeCtx line (fired kv.1) kv.2) }) s
  let s := s.engines.foldl (fun s kv =>
    if kv.2.park = some line then s.setEngine kv.1 { kv.2 with woken := true } else s) s
  s.clusters.foldl (fun s kv => s.setCluster kv.1 { kv.2 with mons := kv.2.mons.filter (· ≠ line) }) s
/-- Lines touched by a range. -/
def linesOf (pa len : Nat) : List Nat :=
  if len = 0 then [] else (List.range ((pa + len - 1) / 64 - pa / 64 + 1)).map (· + pa / 64)
/-- A write performed at its home: the bytes, and the wakes. -/
def State.homeWrite (s : State) (pa : Nat) (bs : List Byte) : State :=
  (linesOf pa bs.length).foldl (fun s l => s.wakeLine l) (s.wrBytes pa bs)

/-! ### The physical map -/

/-- Regions of R14. -/
inductive Region where
  | hbm | llc | spad | ctl | host | peer | reserved
  deriving DecidableEq, Repr

def regionOf (pa : Nat) : Region :=
  if pa < 0x10000000000 then .hbm
  else if pa < 0x10100000000 then .llc
  else if pa < 0x20000000000 then .reserved
  else if pa < 0x20040000000 then .spad
  else if pa < 0x7FFFF00000000 then .reserved
  else if pa < 0x8000000000000 then .ctl
  else if pa < 0xC000000000000 then .host
  else if pa < 0x10000000000000 then .peer
  else .reserved

/-- First byte of a core's scratchpad window (R17). -/
def spadBase (n : Nat) : Nat := 0x20000000000 + n * 0x80000
/-- Core, bank and offset of a scratchpad address. -/
def spadCore (pa : Nat) : Nat := (pa - 0x20000000000) / 0x80000
def spadBank (pa : Nat) : Nat := pa % 0x80000 / 0x8000
/-- Home of an HBM stack or sill die (R15). -/
def stackHome (i : Nat) : Nat := if i < 12 then 4 + i / 3 else i - 12
/-- Stack of an HBM or LLC-window address. -/
def stackOf (pa : Nat) : Nat := if pa < 0x10000000000 then pa / 0x1000000000 else (pa - 0x10000000000) / 0x10000000
/-- Home die (R15); a peer address has none here and travels on the channel to its peer module (R105), numbered from 8. What a context sends to
several dies of one peer module, which R106 and R135 leave unordered, is performed in program order (log entry 97). -/
def homeDie (pa : Nat) : Nat :=
  match regionOf pa with
  | .hbm | .llc => stackHome (stackOf pa)
  | .spad => spadCore pa / 256
  | .ctl => if pa - ctlBase < 0x80000000 then (pa - ctlBase) / 0x10000000
            else stackHome ((pa - ctlBase - 0x80000000) / 0x8000000)
  | .peer => 8 + pa / 0x40000000000 % 256
  | _ => 0

/-- Weator links of the route of R133: along the row, then across. -/
def routeOf (a b : Nat) : List Nat :=
  let y := a / 4
  let x := a % 4
  let x' := b % 4
  (List.range (max x x' - min x x')).map (fun i => 3 * y + min x x' + i) ++ (if a / 4 = b / 4 then [] else [6 + x'])
/-- Route byte of a peer address (R431), and its local link. -/
def State.towRoute (s : State) (pa : Nat) : Nat :=
  let m := pa / 0x40000000000 % 256
  fld (s.creg (dieReg 0 (0x700100 + 8 * (m / 8)))) (8 * (m % 8)) 8
def State.towLink (s : State) (pa : Nat) : Nat := s.towRoute pa % 8
/-- Die that a message to an address travels to within the module. -/
def State.routeEnd (s : State) (pa : Nat) : Nat := if regionOf pa == .peer then s.towLink pa else homeDie pa
/-- R434, R435: the stack is trained and the route's links are up. -/
def reachable (s : State) (d pa : Nat) : Bool :=
  let st := s.creg (dieReg 0 0x700008)
  (match regionOf pa with | .hbm | .llc => bitAt st (32 + stackOf pa) | _ => true)
    && (routeOf d (s.routeEnd pa)).all fun l => bitAt st (16 + l)

/-- Mode of a bank (R46, R54). -/
def bankMode (k : Core) (b : Nat) : Nat :=
  if k.capr = 256 && 8 ≤ b then 3 else fld (mget 0 k.bankmode b) 0 2
/-- Element bytes of a FIFO bank. -/
def fifoEsize (k : Core) (b : Nat) : Nat := 8 * 2 ^ fld (mget 0 k.bankmode b) 16 2
def bankBusy (k : Core) (b : Nat) : Bool := bitAt (mget 0 k.bankmode b) 7

/-- The control-space areas in which an 8-byte access finds a register (R20). -/
def ctlPopulated (pa : Nat) : Bool :=
  let o := pa - ctlBase
  let off := o % 0x10000000
  if o < 0x80000000 then
    (0x100000 ≤ off && off < 0x100068)
    || (0x200000 ≤ off && off < 0x204000 && off % 0x40 < 0x28)
    || (0x300000 ≤ off && off < 0x300048)
    || (0x310000 ≤ off && off < 0x311000)
    || (0x320000 ≤ off && off < 0x320800)
    || (0x400000 ≤ off && off < 0x400800)
    || (0x500000 ≤ off && off < 0x580000 && off % 0x200 < 0x88)
    || (0x580000 ≤ off && off < 0x588000 && off % 0x80 < 0x48)
    || (0x600000 ≤ off && off < 0x600400 && off % 0x40 < 0x28)
    || (o < 0x10000000 && ((0x700000 ≤ off && off < 0x700028) || (0x700100 ≤ off && off < 0x700200)))
    || (0x6000000 ≤ off && off < 0x6080000)
    || (0x8000000 ≤ off && off < 0x8100000)
  else
    let so := (o - 0x80000000) % 0x8000000
    so = 0x1000 || (0x2000 ≤ so && so < 0x2018)

/-- Control-block accesses to the sill die of a failed stack are served where that die answers them (R434). -/
def State.sillServes (s : State) (pa : Nat) : Bool :=
  let o := pa - ctlBase
  let i := (o - 0x80000000) / 0x8000000
  o < 0x80000000 || !bitAt (s.creg (dieReg 0 0x700020)) i || Config.sillAnswers i
/-- R14, R16, R17, R19, R431: the address is populated, for a master on die `d`. -/
def populated (s : State) (d pa : Nat) : Bool :=
  match regionOf pa with
  | .hbm => reachable s d pa
  | .llc =>
    let i := stackOf pa
    let w := s.creg (sillReg i 0x1000)
    let o := pa % 0x10000000
    let now := fld w 0 4 * 0x1000000
    let old := if bitAt w 7 then mget 0 s.llcOld i * 0x1000000 else now
    o < min now old && reachable s d pa
  | .spad =>
    let m := bankMode (s.core (coreNo (spadCore pa))) (spadBank pa)
    (m = 0 || m = 2) && reachable s d pa
  | .ctl => ctlPopulated pa && reachable s d pa && s.sillServes pa
  | .host => reachable s d pa
  | .peer =>
    regionOf (pa % 0x40000000000) != .reserved && pa / 0x40000000000 % 256 ≠ fld (s.creg (dieReg 0 0x700000)) 0 8 && 128 ≤ s.towRoute pa && reachable s d pa
  | .reserved => false

/-- A peer address whose route's towpath link has failed or gone down (R434): traffic over it has stopped (R134, R135). -/
def State.peerDead (s : State) (pa : Nat) : Bool :=
  regionOf pa == .peer && bitAt (s.creg (dieReg 0 0x700020)) (16 + s.towLink pa)

/-- Addresses whose granules carry tags (R83): HBM, here or behind a peer window; what the peer module would check is checked against this
model's own list of granules (log entry 65). -/
def tagged (pa : Nat) : Bool :=
  match regionOf pa with
  | .hbm => true
  | .peer => pa % 0x40000000000 < 0x10000000000
  | _ => false

/-! ### Error correction and poison (R78, R79, R82) -/

/-- Whether a line is poisoned (R79). -/
def State.poisoned (s : State) (pa : Nat) : Bool := mget false s.poison (pa / 64)
def State.tagSet (s : State) (pa : Nat) (g : BitVec 16) : State := { s with gran := mset 0 s.gran (pa / 32) g }
/-- A word the spec leaves open (log entry 7). -/
def State.free (s : State) : Word × State := (Config.freeWord s.freeCtr, { s with freeCtr := s.freeCtr + 1 })
/-- Free bytes. -/
def State.freeBytes (s : State) : Nat → State × List Byte
  | 0 => (s, [])
  | n + 1 =>
    let r := State.freeBytes s n
    let f := r.1.free
    (f.2, r.2 ++ [f.1.setWidth 8])
/-- A counter field of a register, saturating. -/
def State.satAdd (s : State) (pa lo len by' : Nat) : State :=
  let w := s.creg pa
  s.setCreg pa (putFld w lo len (min (fld w lo len + by') (2 ^ len - 1)))
/-- A line miscorrected: its bytes, tags and histories then have values that the spec leaves open (log entry 19). -/
def State.miscorrect (s : State) (line : Nat) : State :=
  let t := (List.range 8).foldl (fun (s : State) i =>
    let f := s.free
    f.2.wrBytes (64 * line + 8 * i) (leBytes 8 f.1.toNat)) s
  let f := t.free
  (f.2.tagSet (64 * line) (f.1.extractLsb' 0 16)).tagSet (64 * line + 32) (f.1.extractLsb' 16 16)
/-- The correctable and the uncorrectable codewords counted (R82); the first uncorrectable line is named. -/
def State.eccCount (s : State) (line : Nat) (bad : Bool) : State :=
  let r := sillReg (stackOf (64 * line)) 0x2008
  if !bad then s.satAdd r 32 32 1
  else
    let first := !bitAt (s.creg r) 0
    let s := (s.satAdd r 16 16 1).orCreg r 1
    if first then s.setCreg (r + 8) (BitVec.ofNat 64 (64 * line)) else s
def State.setEcc (s : State) (line c : Nat) : State := { s with ecc := mset 0 s.ecc line c }
def State.setPoison (s : State) (line : Nat) (b : Bool) : State := { s with poison := mset false s.poison line b }
/-- A line of the HBM array read through its code: one or two bad symbols are corrected, three or four reported; with five or more a free
value says whether the line is reported or miscorrected. Symbols 8 stand for a line that was reported before. `cur` says that what the array
holds is the line's current value; if it is not, only the array is corrected, and an uncorrectable line stays bad in it (R81). -/
def State.eccArray (s : State) (line : Nat) (cur : Bool) : State :=
  let c := mget 0 s.ecc line
  let bad (s : State) : State := if cur then (s.setEcc line 0).setPoison line true else s.setEcc line 8
  if c = 0 then s
  else if 8 ≤ c then bad s
  else if c ≤ 2 then (s.setEcc line 0).eccCount line false
  else
    let f := s.free
    let s := if 5 ≤ c then f.2 else s
    if 5 ≤ c && bitAt f.1 0 then ((if cur then s.miscorrect line else s).setEcc line 0).eccCount line false
    else bad (s.eccCount line true)
/-- Whether the home's L2 or the LLC holds a line, and whether it is dirty there (R58). -/
def State.l2Has (s : State) (line : Nat) : Bool := bitAt (mget 0 s.l2 line) 0
def State.l2Dirty (s : State) (line : Nat) : Bool := bitAt (mget 0 s.l2 line) 1
def State.setL2 (s : State) (line : Nat) (v : BitVec 2) : State := { s with l2 := mset 0 s.l2 line v }
/-- The array's copy of a line is written afresh: every symbol of its codeword is good. -/
def State.writeBack (s : State) (line : Nat) : State := s.setEcc line 0
/-- Evictions are not architected: where it matters for a bad codeword, a free value says whether a held line has been evicted, and of a
dirty one, whether its write-back came after the symbols went bad (R58, log entry 58); one that a scrub found dirty is written back after
it (R81). -/
def State.l2Settle (s : State) (line : Nat) : State :=
  if mget 0 s.ecc line = 0 || !s.l2Has line then s
  else
    let f := s.free
    let s := f.2
    if !bitAt f.1 0 then s
    else
      let s := if s.l2Dirty line && (!bitAt f.1 1 || 8 ≤ mget 0 s.ecc line) then s.writeBack line else s
      s.setL2 line 0
/-- A line of HBM is read at its home: from the L2 or the LLC where they hold it, else through the code. -/
def State.eccRead (s : State) (line : Nat) : State :=
  if mget 0 s.ecc line = 0 || regionOf (64 * line) != .hbm then s
  else
    let s := s.l2Settle line
    if s.l2Has line then s else s.eccArray line true
/-- A line of HBM that an access of a memory type has read or written is held afterwards as R59 says: cached and streaming lines
allocate, uncached ones do not. A write leaves it dirty; one that is not held goes to the array. -/
def State.l2Touch (s : State) (pa : Nat) (mt : BitVec 2) (wr : Bool) : State :=
  let l := pa / 64
  if regionOf pa != .hbm then s
  else if s.l2Has l || mt ≠ 1 then if wr then s.setL2 l 3 else if s.l2Has l then s else s.setL2 l 1
  else if wr then s.writeBack l else s
/-- Lines that a list of pieces touches are read through their codes. -/
def State.eccPieces (s : State) (ps : List Piece) : State :=
  ps.foldl (fun s p => match p.tr with | some t => s.eccRead (t.pa / 64) | none => s) s
/-- Lines that a load has brought into the home's caches. -/
def State.l2Pieces (s : State) (ps : List Piece) : State :=
  ps.foldl (fun s p => match p.tr with | some t => s.l2Touch t.pa t.mt false | none => s) s
/-- A write that covers a poisoned line clears it and sets its tags afresh (R79). -/
def State.clearPoison (s : State) (pa : Nat) (tag : BitVec 4) : State :=
  if s.poisoned pa then
    let s := s.setPoison (pa / 64) false
    if tagged pa then (s.tagSet (pa / 64 * 64) (tag.setWidth 16)).tagSet (pa / 64 * 64 + 32) (tag.setWidth 16) else s
  else s

/-! ### Lines that a unit of the module writes and reads -/

/-- Bytes from an address on, cut at the ends of lines. -/
def cutLines (pa : Nat) : Nat → List Byte → List (Nat × List Byte)
  | 0, _ => []
  | fuel + 1, bs =>
    if bs.isEmpty then []
    else
      let n := 64 - pa % 64
      (pa, bs.take n) :: cutLines (pa + n) fuel (bs.drop n)
/-- A write of a part of a line, or of a whole one: a part of a line is read through the code first, and a part of a poisoned line is not
written (R78, R79). -/
def State.unitLine (s : State) (pa : Nat) (bs : List Byte) : State :=
  let whole := bs.length = 64
  let s := if whole then s.clearPoison pa 0 else s.eccRead (pa / 64)
  if s.poisoned pa && !whole then s else (s.homeWrite pa bs).l2Touch pa 0 true
/-- Bytes that a unit of the module writes on no access's behalf: a save area, a record, a ring entry, a word of the distributor. -/
def State.unitPut (s : State) (pa : Nat) (bs : List Byte) : State :=
  (cutLines pa (bs.length / 64 + 2) bs).foldl (fun s p => s.unitLine p.1 p.2) s
/-- Bytes that a unit of the module is about to read come through the code; of a poisoned line they are free values (log entry 61). -/
def State.unitGet (s : State) (pa len : Nat) : State :=
  (linesOf pa len).foldl (fun s l =>
    let s := s.eccRead l
    if s.poisoned (64 * l) then s.miscorrect l else s) s
def State.homeWr64 (s : State) (pa : Nat) (v : Word) : State := s.unitPut pa (leBytes 8 v.toNat)
/-- Put a record of words into a ring (R32): BASE and SIZE in the ring register, HEAD and TAIL in the two after it;
answers whether it was full. -/
def State.ringPush (s : State) (ring : Nat) (ws : List Word) : State × Bool :=
  let r := s.creg ring
  let size := 2 ^ (fld r 0 4 + 4)
  let h := fld (s.creg (ring + 8)) 0 20
  let t := fld (s.creg (ring + 16)) 0 20
  if (h + 1) % size = t % size then (s, true)
  else
    let base := fld r 12 40 * 4096
    (((s.unitPut (base + 32 * (h % size)) (ws.flatMap fun w => leBytes 8 w.toNat)).setCreg (ring + 8)
      (BitVec.ofNat 64 ((h + 1) % size))), false)

end Sys2Proof.Machine
end

