-- ==== Sys2Proof/Machine/Ops.lean ====
section
/-! DEFINITION. The named operations over the state: results in
flight, taking a trap and returning from one, checkpoints and rollback. -/

namespace Sys2Proof.Machine

abbrev Out := Host.Outcome State Fault Refusal

/-! ### The record and the class of a residency (R190) -/

def Ctx.w (x : Ctx) (i : Nat) : Word := mget 0 x.recd i
def Ctx.queueid (x : Ctx) : Nat := fld (x.w 2) 52 12
def Ctx.savepa (x : Ctx) : Nat := fld (x.w 3) 12 40 * 4096
def Ctx.taskid (x : Ctx) : Nat := fld (x.w 4) 32 32
def Ctx.ownid (x : Ctx) : BitVec 16 := (x.w 4).extractLsb' 16 16
/-- GUARDCFG: its fields; the other bits read as zero whatever the record holds (R8, R70). -/
def Ctx.guard (x : Ctx) : Word := x.w 5 &&& 0x000FFFFFFFFFF00C
def Ctx.dbg (x : Ctx) : Bool := bitAt (x.w 6) 31
def Ctx.prio (x : Ctx) : Nat := fld (x.w 6) 28 3
def Ctx.classG (x : Ctx) : Bool := bitAt (x.w 6) 25
def Ctx.tres (x : Ctx) : Nat := fld (x.w 6) 16 8
def Ctx.mshare (x : Ctx) : Nat := fld (x.w 6) 8 5
def Ctx.vunits (x : Ctx) : Nat := fld (x.w 6) 0 5
def Ctx.tagpol (x : Ctx) : Nat := fld x.guard 2 2
/-- Whether the slot holds a residency. -/
def Ctx.resident (x : Ctx) : Bool := x.run != .vacant
/-- Whether a stop or a violation is held (R399). -/
def Ctx.held (x : Ctx) : Bool := x.run == .stopped || x.run == .violation
/-- Local handler running (R291). -/
def Arch.sup (a : Arch) : Bool := bitAt a.ctxmode 0
/-- Local handler installed and not running (R292). -/
def Arch.handler (a : Arch) : Bool := bitAt a.trapvec 0 && !a.sup

/-! ### Register reads (R267) -/

def Arch.rdS (a : Arch) (r : Nat) : Word := if r = 0 then 0 else mget 0 a.sr r
def Arch.rdP (a : Arch) (r : Nat) : Bool := r = 0 || bitAt a.pr r
def Arch.rdM (a : Arch) (r : Nat) : Word := mget 0 a.mr r
def Arch.rdV (a : Arch) (r : Nat) : VReg := mget 0 a.vr r
def Arch.rdK (a : Arch) (r : Nat) : BitVec 128 := mget 0 a.kr r
def Arch.shapeOf (a : Arch) (t : Nat) : Shape := mget ⟨0, 0⟩ a.shape t
/-- Row i of an operand tile. -/
def Arch.row (a : Arch) (t i : Nat) : BitVec 1152 := mget 0 a.tile (32 * t + i)
/-- The first bytes of a row. -/
def Arch.tileRow (a : Arch) (t i len : Nat) : List Byte := leBytes len (a.row t i).toNat
def AccFile.cellP (f : AccFile) (n i j : Nat) : Word := mget 0 f.p (1024 * n + 32 * i + j)
def AccFile.cellS (f : AccFile) (n i j : Nat) : Word := mget 0 f.s (1024 * n + 32 * i + j)
def AccFile.precOf (f : AccFile) (n : Nat) : Bool := mget false f.prec n
def AccFile.baOf (f : AccFile) (n : Nat) : BitVec 32 := mget 0 f.ba n
def Arch.bound (a : Arch) (t : Nat) : BitVec 32 := if t < 8 then mget 0 a.bt t else a.acc.baOf (t - 8)
/-- Value of an accumulator cell under its precision (R155). -/
def cellVal (prec : Bool) (w : Word) : Val := valOf (if prec then fmt64 else fmt32) (if prec then w.toNat else fld w 0 32)

/-! ### Landing (R196) -/

/-- Cells of an accumulator written. -/
def AccFile.write (f : AccFile) (n : Nat) (cells : List (Nat × Word × Word)) (prec : Option Bool)
    (ba : Option (BitVec 32)) : AccFile where
  p := cells.foldl (fun m c => mset 0 m (1024 * n + c.1) c.2.1) f.p
  s := cells.foldl (fun m c => mset 0 m (1024 * n + c.1) c.2.2) f.s
  prec := match prec with | some b => mset false f.prec n b | none => f.prec
  ba := match ba with | some b => mset 0 f.ba n b | none => f.ba

/-- A binary32 word as a cell of a precision. -/
def cellOf32 (prec : Bool) (x : BitVec 32) : Word :=
  if prec then BitVec.ofNat 64 (rne fmt64 (valOf fmt32 x.toNat)) else x.setWidth 64
/-- Fold of cells (R177): pattern times weight. -/
def foldCells (cells : List (Nat × Word)) : Word :=
  cells.foldl (fun t c => t + c.2 * BitVec.ofNat 64 (2 * c.1 + 1)) 0
/-- An A32 accumulator as binary64 cells, exactly: under escalation it counts as A64 (R169, R357). -/
def AccFile.widen (f : AccFile) (n : Nat) : AccFile :=
  if f.precOf n then f
  else
    let up (w : Word) : Word := cellOf32 true (w.setWidth 32)
    f.write n ((List.range 1024).map fun q => (q, up (mget 0 f.p (1024 * n + q)), up (mget 0 f.s (1024 * n + q)))) (some true) none
/-- Binary32 words stored in an accumulator's precision. -/
def AccFile.write32 (f : AccFile) (n : Nat) (cells : List (Nat × BitVec 32)) (wide : Bool) : AccFile :=
  let f := if wide then f.widen n else f
  f.write n (cells.map fun c => let w := cellOf32 (f.precOf n) c.2; (c.1, w, w)) none none
/-- Bits of a row replaced. -/
def putRow (old : BitVec 1152) (r : RowW) : BitVec 1152 :=
  let m : BitVec 1152 := BitVec.ofNat 1152 (2 ^ r.len - 1) <<< r.lo
  (old &&& ~~~m) ||| (BitVec.ofNat 1152 (r.v % 2 ^ r.len) <<< r.lo)

/-- Cells that a write without a precision of its own stores: at A32 their bits [63:32] are zero (R155). -/
def AccFile.fit (f : AccFile) (n : Nat) (prec : Option Bool) (cells : List (Nat × Word × Word)) : List (Nat × Word × Word) :=
  if prec.getD (f.precOf n) then cells
  else cells.map fun c => (c.1, (c.2.1.setWidth 32).setWidth 64, (c.2.2.setWidth 32).setWidth 64)
/-- One write of a result. -/
def Arch.write (a : Arch) : Write → Arch
  | .s r v => if r = 0 then a else { a with sr := mset 0 a.sr r v }
  | .p r b => if r = 0 then a else { a with pr := if b then a.pr ||| ((1 : BitVec 16) <<< r) else a.pr &&& ~~~((1 : BitVec 16) <<< r) }
  | .m r v => { a with mr := mset 0 a.mr r v }
  | .v r x => { a with vr := mset 0 a.vr r x }
  | .k r en x =>
    let m : BitVec 128 := (List.range 16).foldl (fun m i => if bitAt en i then m ||| (0xFF <<< (8 * i)) else m) 0
    { a with kr := mset 0 a.kr r ((a.rdK r &&& ~~~m) ||| (x &&& m)) }
  | .lc r x => { a with lc := mset 0 a.lc r x }
  | .tile t rs bt org =>
    { a with
      tile := rs.foldl (fun m r => mset 0 m (32 * t + r.row) (putRow (mget 0 m (32 * t + r.row)) r)) a.tile
      bt := match bt with | some b => mset 0 a.bt t b | none => a.bt
      origin := match org with | some o => mset .none a.origin t o | none => a.origin }
  | .acc r cells prec ba fp fs =>
    { a with
      acc := a.acc.write r (a.acc.fit r prec cells) prec ba
      sgp := mset 0 a.sgp r (mget 0 a.sgp r + fp)
      sgs := mset 0 a.sgs r (mget 0 a.sgs r + fs) }
  | .accw r cells wide =>
    let f := foldCells (cells.map fun c => (c.1, cellOf32 (wide || a.acc.precOf r) c.2))
    { a with
      acc := a.acc.write32 r cells wide
      sgp := mset 0 a.sgp r (mget 0 a.sgp r + f)
      sgs := mset 0 a.sgs r (mget 0 a.sgs r + f) }
  | .bnd t x =>
    if t < 8 then { a with bt := mset 0 a.bt t x }
    else { a with acc := { a.acc with ba := mset 0 a.acc.ba (t - 8) x } }
  | .sgz r => { a with sgp := mset 0 a.sgp r 0, sgs := mset 0 a.sgs r 0 }

/-- The same write in the engine's order (R377): at its issue. -/
def Arch.evWrite (a : Arch) : Write → Arch
  | .acc r cells prec ba _ _ => { a with ev := a.ev.write r (a.ev.fit r prec cells) prec ba }
  | .accw r cells wide => { a with ev := a.ev.write32 r cells wide }
  | .bnd t x => if t < 8 then a else { a with ev := { a.ev with ba := mset 0 a.ev.ba (t - 8) x } }
  | _ => a

/-- Undo-log key of a landing (R404): vector and scale registers. -/
def Write.undoKey : Write → Option Nat
  | .v r _ => some r
  | .k r _ _ => some (1024 + r)
  | _ => none
def addKey (l : List Nat) (w : Write) : List Nat :=
  match w.undoKey with
  | some k => if l.contains k then l else k :: l
  | none => l

/-- Accumulators whose landed cells are of a write under escalation, once a write of the result numbered `seq` has landed (R169). -/
def Ctx.escLand (x : Ctx) (seq : Nat) (m : BitVec 4) : Write → BitVec 4
  | .acc r _ (some p) _ _ _ => if p && x.escSeqs.contains seq then m ||| ((1 : BitVec 4) <<< r) else m &&& ~~~((1 : BitVec 4) <<< r)
  | .accw r _ true => m ||| ((1 : BitVec 4) <<< r)
  | _ => m
/-- One result lands. -/
def Ctx.land1 (x : Ctx) (p : Pend) : Ctx :=
  { x with
    a := p.ws.foldl Arch.write x.a
    undo := p.ws.foldl addKey x.undo
    escL := p.ws.foldl (x.escLand p.seq) x.escL }
/-- In due order, then program order (R196). -/
def pendLe (p q : Pend) : Bool := p.due < q.due || (p.due == q.due && p.seq ≤ q.seq)
def insPend (p : Pend) : List Pend → List Pend
  | [] => [p]
  | q :: t => if pendLe p q then p :: q :: t else q :: insPend p t
def sortPend (l : List Pend) : List Pend := l.foldr insPend []
/-- Every result due by the context's present cycle lands. -/
def Ctx.landDue (x : Ctx) : Ctx :=
  let now := x.a.ctxtime.toNat
  let x' := (sortPend (x.pend.filter fun p => p.due ≤ now)).foldl Ctx.land1 x
  { x' with pend := x.pend.filter fun p => now < p.due }
/-- The results due now that have not arrived (R197). -/
def Ctx.late (x : Ctx) : List Pend := x.pend.filter fun p => p.due ≤ x.a.ctxtime.toNat && !p.arrived

/-- A result sent on its way by the operation in focus: due `lat` cycles after the present one. -/
def Ctx.send (x : Ctx) (slot : Slot) (lat : Nat) (ws : List Write) (arrived : Bool) : Ctx :=
  let p : Pend := ⟨x.a.ctxtime.toNat + lat, x.seq, x.a.pc, slot, x.a.rep.toNat, arrived, 0, ws⟩
  { x with pend := x.pend ++ [p], a := ws.foldl Arch.evWrite x.a }
/-- A result of the matrix engine: due `lat` context cycles on, it arrives at core cycle `ready` (R197, R198). -/
def Ctx.sendM (x : Ctx) (slot : Slot) (lat ready : Nat) (ws : List Write) : Ctx :=
  let p : Pend := ⟨x.a.ctxtime.toNat + lat, x.seq, x.a.pc, slot, x.a.rep.toNat, false, ready, ws⟩
  { x with pend := x.pend ++ [p], a := ws.foldl Arch.evWrite x.a }
/-- The results that the matrix engine has computed by a core cycle have arrived. -/
def Ctx.computed (x : Ctx) (now : Nat) : Ctx :=
  let f (p : Pend) : Pend := if p.ready ≠ 0 && p.ready ≤ now then { p with arrived := true } else p
  { x with pend := x.pend.map f, ckPend := x.ckPend.map f }
/-- land(dst, v, L) of R267 for the operation in focus. -/
def State.land (s : State) (lat : Nat) (ws : List Write) : State := s.setCx (s.cx.send s.foc.slot lat ws true)
/-- A result that arrives later, from memory; a destination s0 waits for nothing (R328). -/
def State.await (s : State) (lat : Nat) (keep : Bool) (irrevocable : Bool) : State :=
  if keep then
    let x := s.cx.send s.foc.slot lat [] false
    s.setCx (if irrevocable then { x with ckPend := x.ckPend ++ (x.pend.getLast?).toList } else x)
  else s
/-- A result arrives: its writes are known (R197, R403); in the checkpoint's copy as well (R391). -/
def Ctx.arrive (x : Ctx) (seq : Nat) (ws : List Write) : Ctx :=
  let f (p : Pend) : Pend := if p.seq = seq then { p with arrived := true, ws := ws } else p
  { x with pend := x.pend.map f, ckPend := x.ckPend.map f }

/-! ### Reporting -/

/-- A slot-operation name (R412). -/
def sopName (slot k : Nat) (pc : Word) : Word :=
  putFld (putFld (putFld 0 61 3 slot) 55 6 k) 0 48 pc.toNat &&& ~~~3
/-- Post an event word to a die's queue (R211), which holds 4096; the core holds what finds it full (R210). -/
def State.postEvt (s : State) (n : CoreN) (c : Nat) (code arg : Nat) : State :=
  let d := dieOf n
  let w := putFld (putFld (putFld (putFld (putFld 0 60 4 code) 58 2 c) 52 6 (n.toNat % 64)) 50 2 (n.toNat / 64 % 4)) 0 50 arg
  let k := s.core n
  if k.evts.isEmpty && (s.die d).evt.length < 4096 then s.setDie d { s.die d with evt := (s.die d).evt ++ [w] }
  else s.setCore n { k with evts := k.evts ++ [w] }
/-- Whether the record of a resident context has triggered already (R139): the distributor keeps that over its residencies. -/
def State.trigHeld (s : State) (rpa : Nat) : Bool :=
  s.dies.any fun kv => (kv.2.placed ++ kv.2.offers).any (fun p => p.held.rpa = rpa && p.held.trig) || kv.2.remote.any fun h => h.rpa = rpa && h.trig
def State.hasTriggered (s : State) (n : CoreN) (c : CtxN) : Bool := (s.ctx n c).triggered || s.trigHeld (s.ctx n c).rpa

/-- Whether a trace session is open with a class of records enabled (R420). -/
def State.tracing (s : State) (n : CoreN) (c : CtxN) (bit : Nat) : Bool :=
  let t := s.creg (dbgReg n c 0x60)
  (s.ctx n c).dbg && bitAt t 0 && bitAt t bit
/-- Write a trace record (R421); a full ring drops and counts it. -/
def State.trace (s : State) (n : CoreN) (c : CtxN) (kind sub : Nat) (name arg : Word) : State :=
  let r := s.ringPush (dbgReg n c 0x68)
    [(s.core n).cyc, name, putFld (putFld (putFld 0 60 4 kind) 56 4 sub) 0 56 (s.ctx n c).a.ctxtime.toNat, arg]
  if r.2 then
    let d := s.creg (dbgReg n c 0x80)
    r.1.setCreg (dbgReg n c 0x80) (if d.toNat < 2 ^ 32 - 1 then d + 1 else d)
  else r.1
def State.traceIf (s : State) (n : CoreN) (c : CtxN) (bit kind sub : Nat) (name arg : Word) : State :=
  if s.tracing n c bit then s.trace n c kind sub name arg else s
/-- Count an event (R424): of debuggable contexts only. -/
def State.count (s : State) (n : CoreN) (c : CtxN) (ev : Nat) (by' : Nat) : State :=
  if (s.ctx n c).dbg then
    [0, 1, 2, 3].foldl (fun s i =>
      let sel := s.creg (pmcReg n (8 * i))
      if bitAt sel 12 && bitAt sel (8 + c.toNat) && fld sel 0 8 = ev then
        s.setCreg (pmcReg n (0x20 + 8 * i)) (s.creg (pmcReg n (0x20 + 8 * i)) + BitVec.ofNat 64 by')
      else s) s
  else s

/-! ### Taking a trap, and the return from one (R292, R293, R397 to R402) -/

/-- A cause of R398 as raised: code, subcause, class, argument, and the operation it names. -/
structure Cause where
  code : Nat
  sub : Nat
  cls : Nat
  arg : Word
  pc : Word
  slot : Nat
  k : Nat
  done : Nat

/-- TRAPCAUSE of a cause (R397); NEST while the local handler runs. -/
def Cause.word (q : Cause) (sup : Bool) : Word :=
  putFld (putFld (putFld (putFld 0 20 1 (if sup then 1 else 0)) 18 2 q.cls) 8 8 q.sub) 0 8 q.code
/-- The five trap registers, written as one update. -/
def Arch.trapRegs (a : Arch) (q : Cause) : Arch :=
  { a with
    trapcause := q.word a.sup
    trappc := putFld 0 0 48 q.pc.toNat &&& ~~~3
    trapslot := BitVec.ofNat 64 q.slot
    donemask := BitVec.ofNat 64 q.done
    traparg := q.arg }
/-- Run state of a cause's class (R399). -/
def Cause.run (q : Cause) : Run := if q.cls = 0 then .waiting else if q.cls = 2 then .violation else .stopped
/-- A stop or violation is named in STOPNAME and in a STOP record (R414, R421). -/
def State.nameStop (s : State) (n : CoreN) (c : CtxN) (q : Cause) (sup : Bool) : State :=
  (s.setCreg (dbgReg n c 0x10) (sopName q.slot q.k q.pc)).traceIf n c 4 3 0 (sopName q.slot q.k q.pc) (putFld (q.word sup) 21 43 0)
/-- A cause held for the supervisor, or a wait: the registers, the name of a stop, the event of a violation. -/
def State.hold (s : State) (n : CoreN) (c : CtxN) (q : Cause) : State :=
  let x := s.ctx n c
  let prior : Run := if x.held then x.prior else if x.run = .vacant then .live else x.run
  let y := { x with a := x.a.trapRegs q, run := q.run, prior := prior }
  let s := s.setCtx n c (if q.cls = 0 then y else { y with stepReq := false, stepDue := false })
  let s := if q.cls = 0 then s else s.nameStop n c q x.a.sup
  if q.cls = 2 then s.postEvt n c.toNat 6 0 else s
/-- A cause that the local handler takes when it can (R399): SUP is set and issue continues at TRAPVEC.ADDR. -/
def State.takeLocal (s : State) (n : CoreN) (c : CtxN) (q : Cause) : State :=
  let x := s.ctx n c
  if x.a.handler then
    let a := x.a.trapRegs q
    (s.setCtx n c { x with
      a := { a with
        ctxmode := 1, pc := putFld 0 0 48 x.a.trapvec.toNat &&& ~~~3, rep := 0
        cut := ⟨x.tgt, x.a.rep, x.post, x.postIn, x.csrOld, x.reissue⟩ }
      bpSkip := 0
      retired := false
      reissue := false
      fresh := false
      tgt := none
      post := none
      opened := false
      done := 0
      taken := 0
      owed := 0
      csrOld := [] }).nameStop n c q x.a.sup
  else s.hold n c q
/-- Cause raised by the operation in focus at its issue (R402 stage 6). -/
def State.issueCause (s : State) (code sub cls : Nat) (arg : Word) : Cause :=
  let x := s.cx
  ⟨code, sub, cls, arg, x.a.pc, s.foc.slot.idx, x.a.rep.toNat, 2 ^ s.foc.slot.idx - 1⟩
/-- The slot in focus raises a cause: it has not issued. -/
def State.raise (s : State) (code sub cls : Nat) (arg : Word) : State :=
  { s.hold s.foc.core s.foc.ctx (s.issueCause code sub cls arg) with foc := { s.foc with trapped := true } }
/-- Illegal bundle (R245) named for a slot (7: header or prefix). -/
def State.illegal (s : State) (n : CoreN) (c : CtxN) (slot : Nat) : State :=
  let x := s.ctx n c
  s.hold n c ⟨1, 0, 1, 0, x.a.pc, slot, x.a.rep.toNat, 0⟩
/-- Illegal bundle found by the operation in focus. -/
def State.illegalOp (s : State) : State :=
  { s.illegal s.foc.core s.foc.ctx s.foc.slot.idx with foc := { s.foc with trapped := true } }
/-- Return from the local handler (R293): SUP 0, continue at TRAPPC. DONEMASK, if not zero, leaves that bundle's
remaining slots to issue. -/
def Arch.eret (a : Arch) : Arch := { a with ctxmode := 0, pc := a.trappc }

/-! ### Checkpoints and rollback (R404, R406, R461) -/

/-- The checkpoint of the interval that begins. -/
def Ctx.checkpoint (x : Ctx) : Ctx :=
  { x with ck := x.a, ckPend := x.pend, ckSeq := x.seq, undo := [], wrAcc := 0, wrBnd := 0, wr32 := 0, esc := 0, escL := 0,
           escSeqs := [], implAt := none,
           overflowed := false, irr := x.reissue }
/-- FIFO pops of the owner: kept at a retirement, undone at a rollback (R52). -/
def fifoOwner (k : Core) (c : CtxN) (b : Nat) : Bool :=
  let w := mget 0 k.bankmode b
  fld w 0 2 = 2 && fld w 18 2 = c.toNat
def Core.fifoRetire (k : Core) (c : CtxN) : Core :=
  { k with fifo := k.fifo.map fun bf =>
      if fifoOwner k c bf.1 then (bf.1, { bf.2 with q := bf.2.q.drop bf.2.tent, tent := 0 }) else bf }
def Core.fifoUndo (k : Core) (c : CtxN) : Core :=
  { k with fifo := k.fifo.map fun bf => if fifoOwner k c bf.1 then (bf.1, { bf.2 with tent := 0 }) else bf }
/-- The reloads of a restored context: they belong to the checkpoint of its dispatch (R410, R461). -/
def Entry.isReload (e : Entry) : Bool := match e.kind with | .reload _ => true | _ => false
/-- A context goes back to its checkpoint. The store and replay queues are untouched (R130), and so is the mark of a fence or
TRIGGER with release in the checkpoint bundle, which is not performed again (R104). -/
def Ctx.rollback (x : Ctx) : Ctx :=
  { x with
    a := { x.ck with donemask := 0 }
    pend := x.ckPend
    seq := x.ckSeq
    lq := x.lq.filter fun e => e.seq < x.ckSeq || e.isReload
    pound := []
    marks := x.marks.filter fun m => m.seq < x.ckSeq || m.rel
    undo := []
    implAt := none
    overflowed := false
    mon := if x.ckSeq ≤ x.monSeq && x.mon ≠ .off then .lost else x.mon
    monwait := none
    wrAcc := 0
    wrBnd := 0
    wr32 := 0
    esc := 0
    escL := 0
    escSeqs := []
    tgt := none
    post := none
    opened := false
    done := 0
    taken := 0
    owed := 0
    csrOld := []
    bndStop := false
    fetchWait := none
    fpark := none
    fwoken := false
    retired := true
    reissue := x.reissue || x.irr
    fresh := false
    bpSkip := 0
    dispute := none
    run := if x.run = .waiting then .live else x.run }
/-- The request of a context leaves its cluster's arbiter. -/
def State.dropArb (s : State) (n : CoreN) (c : CtxN) : State :=
  let k := s.cluster (clusterOf n)
  s.setCluster (clusterOf n) { k with arb := k.arb.filter fun q => q.2 ≠ (n.toNat, c.toNat) }
/-- Whether an access of a context, or its fetch, is parked on a line. -/
def Ctx.parkedOn (x : Ctx) (line : Nat) : Bool :=
  x.fpark = some line || (x.lq ++ x.pound ++ x.sq ++ x.rq).any fun e => e.park = some line
/-- Monitors of a cluster on lines that nothing of it is parked on any more are withdrawn (R30, R406). -/
def State.dropMons (s : State) (n : CoreN) : State :=
  let cl := clusterOf n
  let used (l : Nat) : Bool := s.ctxs.any (fun kv => kv.1 / 256 = cl && kv.2.parkedOn l)
    || s.engines.any fun kv => kv.1 / 4 = cl && kv.2.park = some l
  let k := s.cluster cl
  s.setCluster cl { k with mons := k.mons.filter used }
/-- Rollback with its trace record and count; `cause` is the SUB of R421. -/
def State.rollback (s : State) (n : CoreN) (c : CtxN) (cause : Nat) : State :=
  let x := (s.ctx n c).rollback
  let s := (((s.setCtx n c x).setCore n ((s.core n).fifoUndo c)).dropArb n c).dropMons n
  (s.traceIf n c 4 4 cause (sopName 7 0 x.a.pc) 0).count n c 6 1

end Sys2Proof.Machine
end

