-- ==== Sys2Proof/Machine/Operands.lean ====
section
/-! DEFINITION. Addresses: effective addresses and pieces (R12, R13), the physical map and home dies (R14 to R20), the
extents and the local form (R21, R28), what populates an address, and the records of a refusal (R94). -/

namespace Sys2Proof.Machine

/-! ### Effective addresses and pieces -/

/-- R12: not canonical against its base. -/
def nonCanonical (base ptr : Word) : Bool := fld ptr 52 12 != 0 || fld ptr 48 4 != fld base 48 4

/-- A run of bytes of an access: base register, first pointer, length, offset in the access's data. -/
structure Run1 where
  base : Word
  ea : Word
  len : Nat
  off : Nat
  deriving DecidableEq, Repr

/-- A run cut into pieces (R13). -/
def cutRun (r : Run1) : Nat → Nat → List (Word × Piece)
  | 0, _ => []
  | fuel + 1, done =>
    if r.len ≤ done then [] else
    let p := r.ea + BitVec.ofNat 64 done
    let n := min (64 - p.toNat % 64) (r.len - done)
    (r.base, ⟨p, n, r.off + done, none⟩) :: cutRun r fuel (done + n)
/-- Pieces of an access. -/
def cutAll (rs : List Run1) : List (Word × Piece) := rs.flatMap fun r => cutRun r (r.len / 64 + 2) 0

/-! ### Translation at the issue -/

/-- Permissions an access needs. -/
structure Need where
  rd : Bool
  w : Bool
  x : Bool
  deriving DecidableEq, Repr

/-- ACC code of R32. -/
def Need.acc (q : Need) : Nat := if q.x then 3 else if q.rd && q.w then 2 else if q.w then 1 else 0

/-- Outcome of the extents and the local form for a piece. -/
inductive TrRes where
  | hit (t : Tr) (ctl : Bool)
  | denied (sub pa : Nat)
  | miss
  deriving DecidableEq, Repr

/-- The local form (R21): the physical address it maps to. -/
def localForm (n : CoreN) (va : Nat) : Option (Bool × Nat) :=
  if 0xFFFFFDF80000 ≤ va && va < 0xFFFFFE000000 then some (true, spadBase n.toNat + va % 0x80000)
  else if 0xFFFFFE000000 ≤ va then
    some (false, spadBase (clusterOf n * 64 + va / 0x80000 % 64) + va % 0x80000)
  else none

/-- R28 and R21 for a piece at [va, va + len). -/
def trExt (ext : List Extent) (lw : BitVec 2) (n : CoreN) (va len : Nat) (q : Need) : TrRes :=
  match ext.find? fun e => e.vbase ≤ va && va + len ≤ e.vbase + e.len with
  | some e =>
    if (q.rd && !e.rd) || (q.w && !e.w) || (q.x && !e.x) then .denied 0 (e.pbase + (va - e.vbase))
    else .hit ⟨e.pbase + (va - e.vbase), e.mt, e.tc, 0, false, false⟩ e.ctl
  | none =>
    match localForm n va with
    | some (own, pa) =>
      let ok := if own then lw != 0 else lw = 3 || (lw = 2 && !q.w)
      if ok && !q.x then .hit ⟨pa, 0, false, 0, false, false⟩ false else .denied 3 pa
    | none => .miss

/-- The pieces of an access as issue finds them: the first refusal, or the pieces with the translations known. -/
inductive IssueTr where
  | bad (sub : Nat) (ptr : Word) (pa : Nat)
  | ok (ps : List Piece)

/-- Lowest non-canonical piece of an access. -/
def firstNonCanon (l : List (Word × Piece)) : Option Word :=
  l.foldl (fun a bp =>
    if nonCanonical bp.1 bp.2.ptr then
      match a with
      | some m => if bp.2.ptr.toNat < m.toNat then some bp.2.ptr else a
      | none => some bp.2.ptr
    else a) none

/-- Every piece through the extents, in order. -/
def trPieces (x : Ctx) (n : CoreN) (q : Need) : List (Word × Piece) → IssueTr
  | [] => .ok []
  | (_, p) :: t =>
    match trExt x.ext x.lw n (fld p.ptr 0 48) p.len q with
    | .denied sub pa => .bad sub p.ptr pa
    | r =>
      match trPieces x n q t with
      | .bad s a pa => .bad s a pa
      | .ok ps => .ok ({ p with tr := match r with | .hit t _ => some t | _ => none } :: ps)

/-- Issue-time address checks in the order of R400 stage 6: non-canonical, then extents and local form. -/
def issueTr (x : Ctx) (n : CoreN) (q : Need) (rs : List Run1) : IssueTr :=
  let l := cutAll rs
  match firstNonCanon l with
  | some p => .bad 1 p 0
  | none => trPieces x n q l

/-- Whether a piece is addressed through the cluster range of the local form (R21): no extent covers it. -/
def clusterForm (x : Ctx) (n : CoreN) (p : Piece) : Bool :=
  let va := fld p.ptr 0 48
  !(x.ext.any fun e => e.vbase ≤ va && va + p.len ≤ e.vbase + e.len) && (localForm n va).any fun r => !r.1
/-- First known physical address of an access's pieces. -/
def firstPa (ps : List Piece) : Option Nat := (ps.head?.bind (·.tr)).map (·.pa)
/-- Whether a known piece lies in a region. -/
def anyIn (ps : List Piece) (f : Region → Bool) : Bool :=
  ps.any fun p => match p.tr with | some t => f (regionOf t.pa) | none => false

/-! ### Records of refusals (R94) -/

/-- The identity bits of a record, placed as in R32. -/
def idBits (n : CoreN) (c : Nat) (asid : BitVec 16) : Word :=
  putFld (putFld (putFld (putFld (putFld 0 0 16 asid.toNat) 16 3 (dieOf n)) 19 2 (n.toNat / 64 % 4)) 21 6 (n.toNat % 64)) 27 2 c

/-- A violation record (R94). -/
structure Viol where
  cls : Nat
  master : Nat
  acc : Nat
  ptr : Word
  reqid : Nat
  eng : Nat
  ids : Word
  tag : BitVec 16
  pa : Nat
  owner : Nat
  offid : Nat

/-- Append a record to a die's violation ring; a full ring drops it and sets OVF. -/
def State.violRec (s : State) (d : Nat) (v : Viol) : State :=
  let w0 := putFld (putFld (putFld (putFld (putFld 0 60 4 v.cls) 58 2 v.master) 56 2 v.acc) 48 4 (fld v.ptr 48 4)) 0 48
    (fld v.ptr 0 48)
  let w1 := putFld (putFld v.ids 32 16 v.reqid) 29 3 v.eng
  let w2 := putFld (putFld (putFld (putFld 0 60 4 (fld v.tag 0 4)) 56 4 (fld v.tag 4 4)) 52 4 (fld v.tag 8 4)) 0 52 v.pa
  let w3 := putFld (putFld (putFld 0 60 4 (fld v.tag 12 4)) 32 16 v.owner) 16 16 v.offid
  let r := s.ringPush (dieReg d 0x100030) [w0, w1, w2, w3]
  if r.2 then r.1.orCreg (dieReg d 0x100048) 1 else r.1

/-- Record of a context's permission violation; subcause 2 is decode, 5 bank mode. -/
def State.permRec (s : State) (n : CoreN) (c : CtxN) (sub acc : Nat) (ptr : Word) (pa : Nat) : State :=
  s.violRec (dieOf n) ⟨if sub = 2 then 3 else if sub = 5 then 4 else 2, 0, acc, ptr, 0, 0,
    idBits n c.toNat (s.ctx n c).asid, 0, pa, 0, 0⟩
/-- A permission fault of the slot in focus, at its issue. -/
def State.permIssue (s : State) (sub acc : Nat) (ptr : Word) (pa : Nat) : State :=
  (s.raise 0x10 sub 2 ptr).permRec s.foc.core s.foc.ctx sub acc ptr pa

/-- A new entry of a queue for the slot in focus. -/
def State.mkEntry (s : State) (kind : EKind) (ps : List Piece) (data : List Byte) (acq rel : Option (BitVec 3)) : Entry :=
  let x := s.cx
  ⟨x.seq, x.a.pc, s.foc.slot, x.a.rep.toNat, kind, ps, data, acq, rel, false, none, false, false, false, false, 0, false, 0, none, [], false, false⟩
/-- Into the load queue. -/
def State.toLq (s : State) (e : Entry) : State := s.setCx { s.cx with lq := s.cx.lq ++ [e] }
/-- Into the pound (R102). -/
def State.toPound (s : State) (e : Entry) : State := s.setCx { s.cx with pound := s.cx.pound ++ [e] }
/-- Into the store queue, for an irrevocable operation (R104). -/
def State.toSq (s : State) (e : Entry) : State := s.setCx { s.cx with sq := s.cx.sq ++ [e] }

end Sys2Proof.Machine
end

