-- ==== Sys2Proof/Machine/Guard.lean ====
section
/-! DEFINITION. What is checked before an operation issues: the vector budget and register conflicts of R244, the loop
rules, and the tile-configuration reasons 1 and 2 (R358, R359). -/

namespace Sys2Proof.Machine

/-- Consecutive vector registers, modulo 1024. -/
def vrun (v : VNum) (n : Nat) : List Nat := (List.range n).map fun i => (v.toNat + i) % 1024

/-- Rows of a tile or accumulator code (R365). -/
def Arch.rowsOf (a : Arch) (t : Nat) : Nat := if t < 8 then (a.shapeOf t).rows else 32
/-- Row bytes of a tile or accumulator code as the slice moves see it. -/
def Arch.rowBytes (a : Arch) (t : Nat) : Nat := if t < 8 then (a.shapeOf t).rlen else 128
/-- Registers of a row move. -/
def Arch.rowRegs (a : Arch) (t : Nat) : Nat := (a.rowBytes t + 63) / 64
/-- Registers of a column move. -/
def Arch.colRegs (a : Arch) (t : Nat) : Nat := (a.rowsOf t + 15) / 16

/-- Vector registers of a VR word: destination, first, second and third source as flagged. -/
def vopRegs (o : VOp) (d s1 s2 s3 : Bool) : List Nat :=
  (if d then [o.vd.toNat] else []) ++ (if s1 then [o.va.toNat] else []) ++ (if s2 then [o.vb.toNat] else [])
    ++ (if s3 then [o.vc.toNat] else [])

/-- Vector registers an operation names (R40). -/
def vregsOf (a : Arch) : Instr → List Nat
  | .vadd o | .vsub o | .vmul o | .vmin o | .vmax o | .vadds o | .vsubs o | .vmulh o | .vand o | .vor o | .vxor o
  | .vandn o | .vshl o | .vshr o | .vsar o => vopRegs o true true (o.fn == 0) false
  | .vfma o | .vfms o => vopRegs o true true (o.fn == 0) true
  | .vabs o | .vneg o | .vmov o | .vcvt o | .vredsum o | .vredmax o | .vredmin o | .vbcast o | .vrcp o | .vrsqrt o
  | .vexp2 o | .vlog2 o | .vtanh o => vopRegs o true true false false
  | .vcmp o => vopRegs o false true (o.fn &&& 16 == 0) false
  | .vsel o | .vperm o | .vslide o | .vzip o | .vunzip o => vopRegs o true true true false
  | .vbcastScalar o | .vlane o | .vmovl o | .vrng o => vopRegs o true false false false
  | .vmovs o => vopRegs o false true false false
  | .vqnt o => o.vd.toNat :: vrun o.va (if o.srcTy == 8 then 3 else 2)
  | .vdqnt o => o.va.toNat :: vrun o.vd (if o.ty == 8 then 3 else 2)
  | .vld o | .vst o | .vlds o | .vsts o | .vldfar o => [o.d.toNat]
  | .vgath o | .vscat o => vrun o.d 2
  | .berth o =>
    let n := (a.rdS (o.x.toNat + 2)).toNat
    if n = 0 || 4096 < n || n % 8 ≠ 0 then [o.d.toNat] else vrun o.d ((n + 63) / 64)
  | .loopn v _ => [v.toNat]
  | .sld o => vrun o.v 2
  | .trw o | .trr o => vrun o.v (a.rowRegs o.t.toNat)
  | .tcw o | .tcr o => vrun o.v (a.colRegs o.t.toNat)
  | .kwr o | .krd o => [o.v.toNat]
  | _ => []

/-! ### Tile configuration (R358, R359) -/

/-- A tile code and the reason it is refused for. -/
abbrev TileFault := Option (Nat × Nat)

/-- Reason 1: an unconfigured operand tile or accumulator. -/
def Arch.unconf (a : Arch) (t : Nat) : Bool := if t < 8 then !a.ton || (a.shapeOf t).rows = 0 else !a.ton
/-- The first of several tiles that is refused: reason 1 when unconfigured, reason 2 when its test fails. -/
def tileChk (a : Arch) : List (Nat × Bool) → TileFault
  | [] => none
  | (t, ok) :: r => if a.unconf t then some (t, 1) else if ok then tileChk a r else some (t, 2)

/-- Elements per row of an MMA (R381). -/
def mmaK (fa fb : BitVec 4) : Nat :=
  if fa == 10 then 36 else if fa == 11 && fb == 11 then 72 else if fa == 13 && fb == 13 then 288 else 144
/-- Bytes of `k` elements of a format. -/
def fmtBytes (f : BitVec 4) (k : Nat) : Nat :=
  if f == 8 then 4 * k else if f == 10 then 2 * k else k * mxBits f / 8
/-- Kept elements of a group (R373). -/
def keepN (fn : Nat) : Nat := match fn % 4 with | 0 => 3 | 1 => 4 | 2 => 6 | _ => 8
def round4 (n : Nat) : Nat := (n + 3) / 4 * 4
/-- Row length of a compressed tile with `k` source elements in a row. -/
def comprLen (f : BitVec 4) (k n : Nat) : Nat :=
  let bits := if f == 8 then 32 else if f == 10 then 16 else mxBits f
  round4 ((k / 12 * n * bits + 7) / 8)
/-- Row length of the metadata tile. -/
def metaLen (k n : Nat) : Nat := round4 ((k / 12 * n + 1) / 2)
/-- Elements of a row of `len` bytes, if it holds whole groups, and for MX whole blocks (R374). -/
def rowElems (f : BitVec 4) (len : Nat) : Option Nat :=
  let bits := if f == 8 then 32 else if f == 10 then 16 else mxBits f
  let k := len * 8 / bits
  if k * bits = len * 8 && k % 12 = 0 && (!tyMx f || k % 36 = 0) && 0 < k then some k else none
/-- Multiple that RLEN must meet for a tile type (R361). -/
def rlenMult (t : BitVec 4) : Nat := if t == 9 then 8 else if t == 12 then 12 else 4

/-- Shape rule of one tile. -/
def Arch.has (a : Arch) (t rows rlen : Nat) : Bool := a.shapeOf t == ⟨rows, rlen⟩

/-- Tile configuration, reasons 1 and 2, of an operation. -/
def tileFault (a : Arch) : Instr → TileFault
  | .mma o =>
    let k := mmaK o.fa o.fb
    tileChk a [(8 + o.d.toNat, true), (o.ta.toNat, a.has o.ta.toNat 32 (fmtBytes o.fa k)),
      (o.tb.toNat, a.has o.tb.toNat 32 (fmtBytes o.fb k))]
  | .mmas o =>
    let k := mmaK o.fa o.fb
    let n := keepN (o.fn >>> 4).toNat
    tileChk a [(8 + o.d.toNat, true), (o.ta.toNat, a.has o.ta.toNat 32 (fmtBytes o.fa k)),
      (o.tb.toNat, a.has o.tb.toNat 32 (comprLen o.fb k n)), (o.meta3.toNat, a.has o.meta3.toNat 32 (metaLen k n))]
  | .tadd o => tileChk a [(8 + o.d.toNat, true), (8 + o.ta.toNat, true), (8 + o.tb.toNat, true)]
  | .tscl o => tileChk a [(8 + o.d.toNat, true), (8 + o.ta.toNat, true)]
  | .tcvt o =>
    let w := if o.fa == 8 then 4 else 2
    tileChk a [(o.ta.toNat, (a.shapeOf o.ta.toNat).rlen % w = 0 && (a.shapeOf o.ta.toNat).rlen / w ≤ 32),
      (8 + o.d.toNat, true)]
  | .tqnt o =>
    let sb := a.shapeOf o.tb.toNat
    let sa := a.shapeOf o.ta.toNat
    let bb := if o.fb == 8 then 144 else 72
    let ba := 36 * mxBits o.fa / 8
    tileChk a [(o.ta.toNat, sa.rlen % ba = 0 && sa.rlen % rlenMult o.fa = 0
        && sa.rows * (sa.rlen / ba) ≤ sb.rows * (sb.rlen / bb)),
      (o.tb.toNat, sb.rlen % bb = 0)]
  | .tcmpr o =>
    let sb := a.shapeOf o.tb.toNat
    let n := keepN o.fn.toNat
    match rowElems o.fa sb.rlen with
    | some k => tileChk a [(o.ta.toNat, a.has o.ta.toNat sb.rows (comprLen o.fa k n)), (o.tb.toNat, true),
        (o.meta3.toNat, a.has o.meta3.toNat sb.rows (metaLen k n))]
    | none => tileChk a [(o.ta.toNat, true), (o.tb.toNat, false)]
  | .tdcmp o =>
    let sa := a.shapeOf o.ta.toNat
    let n := keepN o.fn.toNat
    match rowElems o.fa sa.rlen with
    | some k => tileChk a [(o.ta.toNat, true), (o.tb.toNat, a.has o.tb.toNat sa.rows (comprLen o.fa k n)),
        (o.meta3.toNat, a.has o.meta3.toNat sa.rows (metaLen k n))]
    | none => tileChk a [(o.ta.toNat, false)]
  | .tmov o => tileChk a [(o.ta.toNat, true), (o.tb.toNat, a.shapeOf o.ta.toNat == a.shapeOf o.tb.toNat)]
  | .tld o => tileChk a [(o.tcode, (a.shapeOf o.tcode).rlen % rlenMult o.ty = 0)]
  | .tst o | .tsend o =>
    tileChk a [(o.tcode, 8 ≤ o.tcode || (a.shapeOf o.tcode).rlen % rlenMult o.ty = 0)]
  | .trw o | .trr o =>
    let i := o.idx.toNat + (a.rdS o.s.toNat).toNat
    tileChk a [(o.t.toNat, i < a.rowsOf o.t.toNat && i ≤ 63)]
  | .tcw o | .tcr o =>
    let i := o.idx.toNat + (a.rdS o.s.toNat).toNat
    tileChk a [(o.t.toNat, i < a.rowBytes o.t.toNat / 4 && i ≤ 63)]
  | .tzero o | .brd o | .bwr o | .bchk o | .bclr o => tileChk a [(o.t.toNat, true)]
  | .sgrd _ | .sgclr _ => none
  | _ => none

/-! ### Register conflicts (R244 item 5) -/

/-- A register written: kind (0 scalar, 1 predicate, 2 mask, 3 vector, 4 tile, 5 accumulator, 6 bound, 7 signature,
8 scale, 9 loop count, 10 CSR) and number. -/
abbrev RegKey := Nat × Nat

def ks (r : Reg) : List RegKey := if r = 0 then [] else [(0, r.toNat)]
def kp (p : PReg) : List RegKey := if p = 0 then [] else [(1, p.toNat)]
def kd (o : LOp) : List RegKey := if o.d = 0 then [] else [(0, o.d.toNat)]
def kv (l : List Nat) : List RegKey := l.map fun n => (3, n)
def kacc (d : Nat) : List RegKey := [(5, d), (6, 8 + d), (7, d)]
def ktile (t : Nat) : List RegKey := [(4, t), (6, t)]

/-- Registers an operation writes, by its destination: one that writes nothing in this issue counts all the same (log entry 103). -/
def writesOf (a : Arch) : Instr → List RegKey
  | .add d _ _ | .sub d _ _ | .mul d _ _ | .mulh d _ _ | .mulhu d _ _ | .div d _ _ | .divu d _ _ | .rem d _ _
  | .remu d _ _ | .and d _ _ | .or d _ _ | .xor d _ _ | .andn d _ _ | .shl d _ _ | .shr d _ _ | .sar d _ _
  | .min d _ _ | .max d _ _ | .minu d _ _ | .maxu d _ _ | .setkey d _ _ => ks d
  | .clz d _ | .popc d _ | .movi d _ | .csrr d _ | .lcr d _ => ks d
  | .ext d _ _ _ _ | .sel d _ _ _ _ => ks d
  | .adds d _ _ _ => ks d
  | .addi d _ _ | .andi d _ _ | .ori d _ _ | .xori d _ _ | .lih d _ _ | .shli d _ _ | .shri d _ _ | .sari d _ _ => ks d
  | .cmp p _ _ _ | .cmpi p _ _ _ => kp p
  | .pand p _ _ _ _ | .por p _ _ _ _ | .pxor p _ _ _ _ | .pandn p _ _ _ _ => kp p
  | .csrw n _ | .csrs n _ | .csrc n _ => [(10, n.toNat)]
  | .lcw n _ => [(9, n.toNat)]
  | .loopn _ n => (List.range n.toNat).map fun i => (9, i)
  | .call _ _ _ | .callr _ => [(0, 63)]
  | .vcmp o | .mand o | .mor o | .mxor o | .mandn o => [(2, o.vd.toNat)]
  | .mpop o | .vmovs o => if o.vd = 0 then [] else [(0, o.vd.toNat)]
  | .vadd o | .vsub o | .vmul o | .vfma o | .vfms o | .vmin o | .vmax o | .vabs o | .vneg o | .vadds o | .vsubs o
  | .vmov o | .vmulh o | .vand o | .vor o | .vxor o | .vandn o | .vshl o | .vshr o | .vsar o | .vsel o | .vcvt o
  | .vqnt o | .vredsum o | .vredmax o | .vredmin o | .vperm o | .vbcast o | .vbcastScalar o | .vlane o | .vmovl o
  | .vslide o | .vzip o | .vunzip o | .vrcp o | .vrsqrt o | .vexp2 o | .vlog2 o | .vtanh o | .vrng o =>
    kv [o.vd.toNat]
  | .vdqnt o => kv (vrun o.vd (if o.ty == 8 then 3 else 2))
  | .mma o | .mmas o | .tadd o | .tscl o => kacc o.d.toNat
  | .tcvt o | .tdcmp o | .tmov o => ktile o.ta.toNat
  | .tqnt o =>
    let sa := a.shapeOf o.ta.toNat
    let g := sa.rows * (sa.rlen / (36 * mxBits o.fa / 8))
    ktile o.ta.toNat ++ (List.range ((g + 15) / 16)).map fun i => (8, (o.ka.toNat + i) % 16)
  | .tcmpr o => ktile o.ta.toNat ++ ktile o.meta3.toNat
  | .ld o | .ldfar o | .atom o | .monarm o | .monwait o | .tagrd o => kd o
  | .gssnext o => kd o ++ ks o.x
  | .vld o | .vlds o | .vgath o | .vldfar o => kv [o.d.toNat]
  | .tld o => ktile o.tcode
  | .sld o => (8, o.t.toNat) :: ks o.s
  | .trw o | .tcw o => if o.t < 8 then ktile o.t.toNat else [(5, o.t.toNat - 8), (7, o.t.toNat - 8)]
  | .tzero o => if o.t < 8 then ktile o.t.toNat else [(5, o.t.toNat - 8), (6, o.t.toNat)]
  | .trr o => kv (vrun o.v (a.rowRegs o.t.toNat))
  | .tcr o => kv (vrun o.v (a.colRegs o.t.toNat))
  | .brd o => ks o.s
  | .bwr o | .bclr o => [(6, o.t.toNat)]
  | .bchk o => kp (o.idx.setWidth 4)
  | .sgrd o => ks o.s
  | .sgclr o => [(7, o.t.toNat - 8)]
  | .trest _ => (List.range 8).map (fun t => (4, t)) ++ (List.range 12).map (fun t => (6, t))
      ++ (List.range 4).flatMap fun d => [(5, d), (7, d)]
  | .kwr o => [(8, o.t.toNat)]
  | .krd o => kv [o.v.toNat]
  | _ => []

/-- Operations that read or write an operand tile, an accumulator or a bound register (R360). -/
def touchesTiles : Instr → Bool
  | .mma _ | .mmas _ | .tadd _ | .tscl _ | .tcvt _ | .tqnt _ | .tcmpr _ | .tdcmp _ | .tmov _ | .tld _ | .tst _
  | .tsend _ | .trw _ | .trr _ | .tcw _ | .tcr _ | .tzero _ | .brd _ | .bwr _ | .bchk _ | .bclr _ => true
  | _ => false
/-- tcfg, tsave and trest (R360, R376). -/
def isTileCfg : Instr → Bool
  | .tcfg _ | .tsave _ | .trest _ => true
  | _ => false

/-- Irrevocable operations (R104). -/
def irrevocable : Instr → Bool
  | .st o => o.ord != 0
  | .atom _ | .arrive _ | .ownx _ | .trigger _ | .spawn _ | .launch _ | .gssnext _ | .tsave _ => true
  | .fence o => bitAt o.ord 1
  | _ => false
/-- Operations that make their bundle a checkpoint bundle (R102, R104, R203, R244 item 9). -/
def makesCkpt (x : Ctx) : Instr → Bool
  | .suspend _ _ _ | .suspendDorm | .retire | .ifence _ _ | .ifenceAll | .sgclr _ => true
  | .waitp _ => fld x.a.waitctl 0 32 ≠ 0 && !x.inBody
  | i => irrevocable i

/-- R244 items 3, 6 and 10 for one operation, and the rules of R293, R295 and R435 that name the illegal-bundle trap. -/
def opLegal (x : Ctx) (reduced : Bool) (i : Instr) : Bool :=
  let a := x.a
  i.wf && (vregsOf a i).all (· < 64 * x.vunits)
    && (match i with
        | .lcw n _ => !(n < a.dims)
        | .loopn _ n => a.dims = 0 && n ≠ 0
        | .eret => a.sup
        | .suspend _ _ _ | .suspendDorm => !a.sup
        | .mmas _ => !reduced
        | _ => true)
    && !(x.inBody && i.isControl)

/-- An operation acts only when it is legal and its tiles are as it needs; else the slot in focus takes the trap
(R245, R359). -/
def State.guarded (s : State) (i : Instr) (k : State → State) : Out :=
  let x := s.cx
  if !opLegal x ((s.die (dieOf s.foc.core)).service = 1) i then .next s.illegalOp
  else match tileFault x.a i with
    | some (t, r) =>
      let q : Cause := ⟨2, 0, 1, BitVec.ofNat 64 (t + 16 * r), x.a.pc, s.foc.slot.idx, x.a.rep.toNat, 0⟩
      .next { s.takeLocal s.foc.core s.foc.ctx q with foc := { s.foc with trapped := true } }
    | none => .next (k s)

end Sys2Proof.Machine
end

