-- ==== Sys2Proof/Machine/Fetch.lean ====
section
/-! DEFINITION. The instruction store (R284) as fetch reads it, and the bundles found in it (R236, R263). -/

namespace Sys2Proof.Machine

/-- The line of a half with this ASID and line number. -/
def Core.istoreAt (k : Core) (half : Bool) (asid : BitVec 16) (line : Nat) : Option VReg :=
  (k.istore.find? fun l => l.half == half && l.asid == asid && l.line == line).map (·.bytes)
/-- Byte `j` of a 64-byte line. -/
def lineByte (v : VReg) (j : Nat) : Byte := v.extractLsb' (8 * j) 8

/-- Outcome of reading bundle bytes. -/
inductive FetchRes where
  | miss (line : Nat)
  | ok (bs : List Byte)
  deriving DecidableEq, Repr

/-- `len` bytes at a bundle address through the fetch half. -/
def fetchBytes (k : Core) (asid : BitVec 16) (va : Nat) : Nat → FetchRes
  | 0 => .ok []
  | n + 1 =>
    match k.istoreAt k.fh asid (va / 64) with
    | none => .miss (va / 64)
    | some v =>
      match fetchBytes k asid (va + 1) n with
      | .miss l => .miss l
      | .ok bs => .ok (lineByte v (va % 64) :: bs)

/-- A bundle as fetched, or the line that misses. -/
inductive BundleRes where
  | miss (line : Nat)
  | ok (b : Bundle)
  deriving DecidableEq, Repr

/-- The bundle at an address. The words after a header that breaks R244 item 1 are not fetched. -/
def bundleAt (k : Core) (asid : BitVec 16) (va : Nat) : BundleRes :=
  match fetchBytes k asid va 8 with
  | .miss l => .miss l
  | .ok h8 =>
    let h : Word := leWord 64 h8
    if !hOk h then .ok ⟨h, [], none, []⟩
    else match fetchBytes k asid va (bundleLen h) with
      | .miss l => .miss l
      | .ok bs => .ok (decodeBundle bs)

/-- The body of a nest (R263): a line that misses, too many bundles, or its length and the address after it. -/
inductive BodyRes where
  | miss (line : Nat)
  | long
  | ok (len : Nat) (after : Word)
  deriving DecidableEq, Repr

/-- Bundles from `pc` up to the first with E. -/
def bodyAt (k : Core) (asid : BitVec 16) (pc : Word) : Nat → Nat → BodyRes
  | 0, _ => .long
  | fuel + 1, n =>
    match fetchBytes k asid (fld pc 0 48) 8 with
    | .miss l => .miss l
    | .ok h8 =>
      let h : Word := leWord 64 h8
      let next := pc + BitVec.ofNat 64 (bundleLen h)
      if hE h then .ok (n + 1) next else bodyAt k asid next fuel (n + 1)
/-- The body after the bundle in focus. -/
def State.body (s : State) (n : CoreN) (c : CtxN) : BodyRes :=
  bodyAt (s.core n) (s.ctx n c).asid (s.ctx n c).npc 16 0

end Sys2Proof.Machine
end

