-- ==== Sys2Proof/Machine/Csr.lean ====
section
/-! DEFINITION. The control and status registers (R288 to R290): what each reads, what a write does, and the
drain-and-switch of a bank (R53). -/

namespace Sys2Proof.Machine

/-- BANKMODEn as read (R46, R54): FILL from the queue, MODE 11 for an absent bank, reserved bits 0. -/
def Core.bankmodeRd (k : Core) (b : Nat) : Word :=
  if k.capr = 256 && 8 ≤ b then 3
  else
    let w := mget 0 k.bankmode b &&& 0xF00CF
    if fld w 0 2 = 2 then putFld w 32 16 (mget Fifo.zero k.fifo b).q.length else w

/-- DORM of BERTHCTL (R65). -/
def State.dormMask (s : State) (n : CoreN) : Nat :=
  allCtx.foldl (fun m c => if (s.ctx n c).run = .dormant then m + 2 ^ c.toNat else m) 0

/-- LOOPST (R261). -/
def Arch.loopst (a : Arch) : Word :=
  putFld (putFld (putFld 0 8 4 a.llen.toNat) 4 4 a.lpos.toNat) 0 3 a.dims.toNat
/-- VCFG (R42). -/
def Ctx.vcfg (x : Ctx) : Word :=
  putFld (putFld (putFld 0 16 8 x.tres) 8 8 x.a.tfoot.toNat) 0 5 x.vunits

/-- A CSR's value (R289). -/
def State.csrRead (s : State) (n : CoreN) (c : CtxN) (num : BitVec 13) : Word :=
  let x := s.ctx n c
  let k := s.core n
  match num.toNat with
  | 0x00 => BitVec.ofNat 64 c.toNat
  | 0x01 => BitVec.ofNat 64 (n.toNat % 64)
  | 0x02 => BitVec.ofNat 64 (n.toNat / 64 % 4)
  | 0x03 => BitVec.ofNat 64 (dieOf n)
  | 0x04 => if isG n then 1 else 0
  | 0x05 => k.capr.setWidth 64
  | 0x06 => k.cyc
  | 0x07 => putFld (putFld 0 0 1 (if k.fh then 1 else 0)) 1 1 (if k.stage.isEmpty then 0 else 1)
  | 0x10 => x.vcfg
  | 0x11 => x.guard
  | 0x12 => x.ownid.setWidth 64
  | 0x13 => k.slottab
  | 0x14 => k.bankassign
  | 0x15 => putFld (putFld 0 8 4 k.berthq.length) 0 4 (s.dormMask n)
  | 0x16 => x.a.loopst
  | 0x17 => x.a.ctxtime
  | 0x20 => x.a.bthr
  | 0x21 => x.a.besc
  | 0x22 => x.a.mcdef
  | 0x23 => x.a.waitctl
  | 0x24 => x.a.driftthr
  | 0x30 => x.a.trapcause
  | 0x31 => x.a.trappc
  | 0x32 => x.a.trapslot
  | 0x33 => x.a.donemask
  | 0x34 => x.a.traparg
  | 0x35 => x.a.trapvec
  | 0x36 => x.a.ctxmode
  | m => if 0x40 ≤ m && m < 0x50 then k.bankmodeRd (m - 0x40) else 0

/-- A CSR as the operations of the bundle being issued read it: as it was before the bundle (R9, R288). -/
def State.csrSeen (s : State) (n : CoreN) (c : CtxN) (num : Nat) : Word :=
  match (s.ctx n c).csrOld.find? fun p => p.1 = num with
  | some p => p.2
  | none => s.csrRead n c (BitVec.ofNat 13 num)

/-- The three forms of a write (R288). -/
inductive CsrOp where
  | write | set | clear
  deriving DecidableEq, Repr
/-- Value offered to the RW fields. -/
def CsrOp.value (o : CsrOp) (old v : Word) : Word :=
  match o with
  | .write => v
  | .set => old ||| v
  | .clear => old &&& ~~~v
/-- RW fields of a mask take the value, the others stay. -/
def CsrOp.rw (o : CsrOp) (mask old v : Word) : Word := (o.value old v &&& mask) ||| (old &&& ~~~mask)
/-- Bits written 1 to W1C fields; csrs and csrc pass zero. -/
def CsrOp.w1c (o : CsrOp) (mask v : Word) : Word := if o = .write then v &&& mask else 0

/-- RW fields of the per-context CSRs (R166, R170, R203, R423, R397, R291). -/
def csrMask (num : Nat) : Word :=
  match num with
  | 0x20 => 0x3FF00FF
  | 0x21 => 0xFFFFFFFF00000000
  | 0x23 => 0xFFFFFFFF
  | 0x24 => 0xFFFFFFFF
  | 0x31 => 0xFFFFFFFFFFFC
  | 0x35 => 0xFFFFFFFFFFFD
  | _ => 0

/-- Whether a context may write a bank's mode (R47). -/
def Core.bankOwned (k : Core) (c : CtxN) (b : Nat) : Bool :=
  bitAt k.bankassign (32 + b) && fld k.bankassign (2 * b) 2 == c.toNat

/-- Start of a drain and switch (R53). `v` is the value for the RW fields, `w1c` the W1C bits written. OWNCTX and ESIZE wait
in reserved bits 11 to 8 until the switch completes; a bank that is busy takes no further request. -/
def State.bankWrite (s : State) (n : CoreN) (b : Nat) (v w1c : Word) : State :=
  let k := s.core n
  if k.capr = 256 && 8 ≤ b then s else
  let old := mget 0 k.bankmode b &&& ~~~w1c
  let m := fld v 2 2
  let mode := fld old 0 2
  let put (w : Word) : State := s.setCore n { k with bankmode := mset 0 k.bankmode b w }
  let q := mget Fifo.zero k.fifo b
  if bitAt old 7 || m = mode || m = 3 || mode = 3 then put old
  else if mode = 2 && !(q.q.isEmpty && q.waiting.isEmpty) then put (putFld (putFld old 6 1 1) 2 2 mode)
  else
    let w := putFld (putFld (putFld (putFld old 7 1 1) 2 2 m) 10 2 (fld v 18 2)) 8 2 (fld v 16 2)
    s.setCore n { k with
      bankmode := mset 0 k.bankmode b w
      bankSince := msets 0 k.bankSince (allCtx.map fun c => (4 * b + c.toNat, (s.ctx n c).seq)) }

/-- A write of a per-context CSR. -/
def Arch.csrWrite (a : Arch) (o : CsrOp) (num : Nat) (v : Word) : Arch :=
  match num with
  | 0x20 => { a with bthr := o.rw (csrMask 0x20) a.bthr v }
  | 0x21 => { a with besc := o.rw (csrMask 0x21) a.besc v }
  | 0x22 => { a with mcdef := a.mcdef &&& ~~~(o.w1c 0xA000000000000000 v) }
  | 0x23 => { a with waitctl := o.rw (csrMask 0x23) a.waitctl v }
  | 0x24 => { a with driftthr := o.rw (csrMask 0x24) a.driftthr v }
  | 0x31 => if a.sup then { a with trappc := o.rw (csrMask 0x31) a.trappc v } else a
  | 0x35 => if a.handler then a else { a with trapvec := o.rw (csrMask 0x35) a.trapvec v }
  | _ => a

/-- The value of a CSR that an operation of the slot in focus is about to change is kept for the reads of its bundle (R9). -/
def State.keepCsr (s : State) (num : BitVec 13) : State :=
  s.setCx { s.cx with csrOld := s.cx.csrOld ++ [(num.toNat, s.csrRead s.foc.core s.foc.ctx num)] }
/-- A CSR operation of the slot in focus (R288); a bank's mode is written by its owner alone (R47). -/
def State.csrWrite (s : State) (o : CsrOp) (num : BitVec 13) (v : Word) : State :=
  let n := s.foc.core
  let c := s.foc.ctx
  if 0x40 ≤ num && num < 0x50 then
    let b := num.toNat - 0x40
    let k := s.core n
    if k.bankOwned c b then
      (s.keepCsr num).bankWrite n b (o.value (k.bankmodeRd b) v) (o.w1c 0x40 v)
    else (s.raise 0x10 5 2 (num.setWidth 64)).permRec n c 5 1 (num.setWidth 64) 0
  else (s.keepCsr num).mapArch n c fun a => a.csrWrite o num.toNat v

end Sys2Proof.Machine
end

