-- ==== Sys2Proof/Machine/Plan.lean ====
section
/-! DEFINITION. What a context would issue next: the bundle at its address, each slot's operation stepped as R240, R241 and
R264 give, the faults of R244 and R245, and whether the context is ready (R195, R199, R201). -/

namespace Sys2Proof.Machine

/-! ### Slots of an issue (R240) -/

/-- What a slot does in an issue: its operation, its sticky state once it has issued, and whether it breaks items 3, 4, 6, 7, 8
or 10 of R244. -/
structure PSlot where
  slot : Slot
  op : Option Instr
  st : Sticky
  bad : Bool
  deriving DecidableEq, Repr

/-- Prefixes held in sticky state. -/
def Sticky.pfx (q : Sticky) (s : Slot) : Pfx := pfxAt [q.pfx0, q.pfx1] s
/-- The operation a sticky state stands for. -/
def Sticky.decode (q : Sticky) (s : Slot) : Option Instr := decodeSticky s.cls q.word (q.pfx s) q.disp
/-- The same, advanced. -/
def Sticky.advance (q : Sticky) (s : Slot) (d : Int) : Sticky :=
  let r := advanceWord s q.word q.disp d
  { q with word := r.1, disp := r.2 }
/-- Sticky state of a slot word in mode new, with its prefix words. -/
def Sticky.ofWord (s : Slot) (w : BitVec 64) (ps : List (BitVec 32)) (nib : BitVec 4) : Sticky :=
  let mine := ps.filter fun p => fld p 25 3 == s.idx
  ⟨true, w, immDisp w (pfxAt ps s).ximm, mine.headD 0, (mine.drop 1).headD 0, nib⟩

/-- R264: the distance of the stepping fields of a word given in a body bundle. -/
def Arch.loopDelta (a : Arch) (s : Slot) (nib : BitVec 4) : Int :=
  let lc (d : Nat) : Int := (mget 0 a.lc d).toNat
  let row (d : Nat) : Int := (mget 0 a.lstr (5 * (s.idx - 2) + (d - 1))).toInt * lc d
  nib.toInt * lc 0 + (((List.range a.dims.toNat).drop 1).map row).sum

/-- The plan of one slot at issue k. -/
def planSlot (x : Ctx) (b : Bundle) (k : Nat) (body reduced : Bool) (s : Slot) : PSlot :=
  let m := hMode b.hdr s
  let n := hNudge b.hdr s
  let old := mget Sticky.rest x.a.sticky s.idx
  let badNib := n ≠ 0 && (m ≤ 1 || s = .A || s = .B || s = .X)
  let issue (q : Sticky) : PSlot :=
    match q.decode s with
    | none => ⟨s, none, q, true⟩
    | some i =>
      ⟨s, some i, if i.isControl then Sticky.rest else q,
        badNib || (s = .B && i.isControl) || !opLegal { x with inBody := body } reduced i⟩
  if m = 1 then ⟨s, none, Sticky.rest, badNib⟩
  else if m = 2 && k = 0 then
    let q := Sticky.ofWord s (((b.words.find? fun w => w.1 == s).map (·.2)).getD 0) b.pfx n
    -- a field value that the word itself must not have is not stepped away (R244 item 3, R260)
    let given := match q.decode s with | some i => i.wf | none => false
    if body && given then issue (q.advance s (x.a.loopDelta s n)) else issue q
  else if m = 3 then
    if old.live then issue (old.advance s n.toInt) else ⟨s, none, old, true⟩
  else if old.live then issue (old.advance s old.step.toInt)
  else ⟨s, none, old, badNib⟩

/-! ### The checks of a bundle (R244, R245) -/

/-- Item 5: the first slot that writes a register an earlier one writes. -/
def firstConflict (a : Arch) : List PSlot → List RegKey → Option Nat
  | [], _ => none
  | p :: t, seen =>
    let ws := (p.op.map (writesOf a)).getD []
    if ws.any fun r => seen.contains r then some p.slot.idx else firstConflict a t (seen ++ ws)
/-- The lower of two slots. -/
def minSlot : Option Nat → Option Nat → Option Nat
  | some a, some b => some (min a b)
  | some a, none => some a
  | none, b => b
/-- tcfg, tsave or trest beside another operation on tiles (R360, R376). R360 points to item 3 of R244 and does not say which of the two slots
is at fault: it is L, where tcfg, tsave and trest stand (log entry 88). -/
def tcfgClash (l : List PSlot) : Option Nat :=
  if (l.any fun p => (p.op.map isTileCfg).getD false) && (l.any fun p => (p.op.map touchesTiles).getD false)
  then some 5 else none
/-- The slot an illegal bundle names, if it is one. -/
def illegalSlot (x : Ctx) (b : Bundle) (body : Bool) (l : List PSlot) : Option Nat :=
  let h := b.hdr
  let pfxBad := b.words.any fun w => !pfxOk w.1.cls w.2 (pfxAt b.pfx w.1)
  if !hOk h || !pfxWordsOk h b.pfx || pfxBad || (hRep h ≠ 0 && hC h) then some 7
  else
    let one := (l.find? (·.bad)).map (·.slot.idx)
    let rep := (l.find? fun p => hRep h ≠ 0 && ((p.op.map fun i => i.isControl || makesCkpt { x with inBody := body } i).getD false)).map (·.slot.idx)
    minSlot (minSlot one rep) (minSlot (firstConflict x.a l []) (tcfgClash l))

/-! ### Loop bodies (R264 to R266) -/

/-- Place of an address among the bundles of a body: the line that misses, or its position. -/
def bodyPos (k : Core) (asid : BitVec 16) (at' : Word) : Nat → Word → Nat → Sum Nat (Option Nat)
  | 0, _, _ => .inr none
  | fuel + 1, pc, j =>
    if pc = at' then .inr (some j)
    else match fetchBytes k asid (fld pc 0 48) 8 with
      | .miss l => .inl l
      | .ok h8 => bodyPos k asid at' fuel (pc + BitVec.ofNat 64 (bundleLen (leWord 64 h8))) (j + 1)
/-- Position in the active nest of the bundle a context is at. -/
def Ctx.bodyAtPc (x : Ctx) (k : Core) : Sum Nat (Option Nat) :=
  if x.a.dims = 0 then .inr none else bodyPos k x.asid x.a.pc (x.a.llen.toNat + 1) x.a.body 0

/-! ### The plan -/

/-- A bundle planned: its position in a body, its slots, the address after it, and the slot an illegal bundle names. -/
structure Plan where
  b : Bundle
  pos : Option Nat
  slots : List PSlot
  next : Word
  bad : Option Nat
  deriving DecidableEq, Repr
/-- Outcome of fetching and planning. -/
inductive PlanRes where
  | miss (line : Nat)
  | badTarget
  | ok (p : Plan)
  deriving DecidableEq, Repr

/-- The slot at fault, of a bundle that is illegal but for a LOOPN's body: the body is looked at only where the LOOPN could be the lowest slot at
fault, and a line of it that is missed is filled first (R245, R263; log entry 95). -/
def loopnBody (k : Core) (asid : BitVec 16) (next : Word) (l : List PSlot) (bad : Option Nat) : Sum Nat (Option Nat) :=
  match l.find? fun p => match p.op with | some (.loopn _ _) => true | _ => false with
  | none => .inr bad
  | some p =>
    if bad = some 7 || bad.any (· ≤ p.slot.idx) then .inr bad
    else match bodyAt k asid next 16 0 with
    | .miss ln => .inl ln
    | .long => .inr (some p.slot.idx)
    | .ok _ _ => .inr bad

/-- Plan of the next issue of a context. A target that is no bundle address is met at fetch (R281). -/
def State.plan (s : State) (n : CoreN) (c : CtxN) : PlanRes :=
  let x := s.ctx n c
  let k := s.core n
  if fld x.a.pc 48 16 ≠ 0 || fld x.a.pc 0 2 ≠ 0 then .badTarget
  else match x.bodyAtPc k with
    | .inl l => .miss l
    | .inr pos =>
      match bundleAt k x.asid x.a.pc.toNat with
      | .miss l => .miss l
      | .ok b =>
        let reduced := (s.die (dieOf n)).service = 1
        let done := if x.opened then x.done else 0
        let l := (allSlots.filter fun t => !bitAt (BitVec.ofNat 7 done) t.idx).map
          (planSlot x b x.a.rep.toNat pos.isSome reduced)
        let next := x.a.pc + BitVec.ofNat 64 (bundleLen b.hdr)
        match loopnBody k x.asid next l (illegalSlot x b pos.isSome l) with
        | .inl ln => .miss ln
        | .inr bad => .ok ⟨b, pos, l, next, bad⟩

/-! ### Readiness -/

/-- An entry whose translation is not known. -/
def Entry.unknown (e : Entry) : Bool := e.pieces.any fun p => p.tr.isNone
/-- Results in flight to operand tiles, accumulators and bounds: what tcfg and trest wait for (R360). -/
def Write.isTile : Write → Bool
  | .tile _ _ _ _ | .acc _ _ _ _ _ _ | .accw _ _ _ | .bnd _ _ => true
  | _ => false
def Entry.isTld (e : Entry) : Bool := match e.kind with | .tld _ _ _ _ _ _ _ _ _ _ => true | _ => false
def Entry.isCfg (e : Entry) : Bool := match e.kind with | .tcfg | .trest _ _ => true | _ => false
/-- Due cycles of those results. A tile load not yet performed has no writes but is one of them. -/
def Ctx.tilePend (x : Ctx) : List Pend :=
  x.pend.filter fun p => p.ws.any Write.isTile || (x.lq.any fun e => e.isTld && e.seq == p.seq)
/-- D of R360: the latest due cycle of those results. -/
def Ctx.tileDue (x : Ctx) : Nat := x.tilePend.foldl (fun m p => max m p.due) 0
/-- A queue entry that keeps the next bundle from issuing: a translation not yet known (R28), a WAITP (R342), a SUSPEND
(R294), a tcfg or trest whose reads or results are missing (R360, R376). -/
def Ctx.holdsIssue (x : Ctx) (e : Entry) : Bool :=
  e.unknown || (match e.kind with
    | .waitp _ _ _ _ | .susp _ _ | .reload _ => true
    | .tcfg | .trest _ _ => !e.left || x.tilePend.any (!·.arrived) || x.pend.any fun p => p.due ≤ x.tileDue && !p.arrived
    | _ => false)
/-- An engine result of the interval that the engines have not computed: a checkpoint bundle waits for it (R390). -/
def Ctx.computing (x : Ctx) : Bool := x.pend.any fun p => p.ready ≠ 0 && !p.arrived && x.ckSeq ≤ p.seq
/-- Whether the context can issue: resident, not frozen, nothing it waits for (R195, R197). The slots left of a bundle issue although its
control operation waits for them (R242, R281). -/
def Ctx.canIssue (x : Ctx) : Bool :=
  x.run == .live && (x.opened || x.post.isNone) && x.fetchWait.isNone && x.dispute.isNone && x.monwait.isNone
    && (x.taken ≠ 0 || x.late.isEmpty) && !(x.lq ++ x.pound ++ x.sq).any x.holdsIssue

/-- Holder of the slot-table entry of this core cycle (R200). -/
def Core.slotHolder (k : Core) : Option CtxN :=
  let e := fld k.slottab (4 * (k.cyc.toNat / 64 % 16)) 4
  if 4 ≤ e % 8 then some (ctxNo (e % 4)) else none
/-- The engine operation of a plan. -/
def PlanRes.needsEngine : PlanRes → Bool
  | .ok p => p.slots.any fun q => q.slot = .M && q.op.isSome
  | _ => false
/-- Whether the bundle of a plan is a checkpoint bundle by its own words, or because of the marks of R406. -/
def isCkpt (x : Ctx) (h : Word) (ops : List Instr) : Bool := hC h || ops.any (makesCkpt x)
def implCkpt (x : Ctx) (h : Word) : Bool :=
  x.overflowed || (x.implAt.isSome && hRep h = 0 && x.a.rep = 0 && x.pend.isEmpty)
/-- Operations of a plan with their slots, in order. -/
def Plan.ops (p : Plan) : List (Slot × Instr) := p.slots.filterMap fun q => q.op.map fun i => (q.slot, i)
/-- A store that a context has sent is held at a bank of its own core: the context is frozen until it is performed (R53). -/
def State.bankHeld (s : State) (n : CoreN) (c : CtxN) : Bool :=
  let k := s.core n
  ((s.ctx n c).sq ++ (s.ctx n c).rq).any fun e => e.left && e.pieces.any fun p => match p.tr with
    | some t => regionOf t.pa == .spad && spadCore t.pa = n.toNat && bankBusy k (spadBank t.pa)
        && mget 0 k.bankSince (4 * spadBank t.pa + c.toNat) ≤ e.seq
    | none => false
/-- Whether the next bundle is a checkpoint bundle that waits for the engines: a freeze of the kind of R197 (R390). -/
def State.computeWait (s : State) (n : CoreN) (c : CtxN) : Bool :=
  let x := s.ctx n c
  match s.plan n c with
  | .ok p => !x.opened && x.computing && (isCkpt { x with inBody := p.pos.isSome } p.b.hdr (p.ops.map (·.2)) || implCkpt x p.b.hdr)
  | _ => false
/-- Ready or engine-waiting. -/
def State.active (s : State) (n : CoreN) (c : CtxN) : Bool :=
  (s.ctx n c).canIssue && !s.bankHeld n c && !s.computeWait n c && (match s.plan n c with | .miss _ => false | _ => true)
/-- The operation whose result a context is frozen on (R197, R390). -/
def State.lateOp (s : State) (n : CoreN) (c : CtxN) : Option Pend :=
  let x := s.ctx n c
  match x.late with
  | p :: _ => some p
  | [] =>
    if x.canIssue && !s.bankHeld n c && s.computeWait n c then x.pend.find? fun p => p.ready ≠ 0 && !p.arrived && x.ckSeq ≤ p.seq else none
/-- R201. -/
def State.engineAccepts (s : State) (n : CoreN) (c : CtxN) : Bool :=
  let k := s.core n
  k.engFree ≤ k.cyc.toNat && (match k.slotHolder with
    | none => true
    | some h => h = c || !s.active n h)
/-- Ready (R195): not engine-waiting. -/
def State.ready (s : State) (n : CoreN) (c : CtxN) : Bool :=
  s.active n c && (!(s.plan n c).needsEngine || s.engineAccepts n c)

end Sys2Proof.Machine
end

