-- ==== Sys2Proof/Machine/Flags.lean ====
section
/-! DEFINITION. The comparisons that set predicates and masks: scalar compares (R279) and lane compares (R314). -/

namespace Sys2Proof.Machine

/-- CC of R279. -/
def cmpCc (cc : BitVec 4) (a b : Word) : Bool :=
  match cc.toNat with
  | 0 => a == b
  | 1 => a != b
  | 2 => a.slt b
  | 3 => !a.slt b
  | 4 => a.ult b
  | 5 => !a.ult b
  | 6 => b.slt a
  | 7 => !b.slt a
  | 8 => b.ult a
  | 9 => !b.ult a
  | _ => a &&& b != 0

end Sys2Proof.Machine
end

