-- ==== Sys2Proof/Machine/Scalar.lean ====
section
/-! DEFINITION. Scalar operations (chapter 11): register arithmetic, immediates, compares, predicate logic, CSR access and
the loop-count moves. -/

namespace Sys2Proof.Machine

/-! ### Arithmetic of R275 to R278 -/

/-- Bits 127 to 64 of a product. -/
def mulHi (sgn : Bool) (x y : Word) : Word :=
  if sgn then BitVec.ofInt 64 (x.toInt * y.toInt / 2 ^ 64) else BitVec.ofNat 64 (x.toNat * y.toNat / 2 ^ 64)
/-- Division never traps (R276). -/
def divS (x y : Word) : Word := if y = 0 then ~~~0 else BitVec.ofInt 64 (x.toInt.tdiv y.toInt)
def remS (x y : Word) : Word := if y = 0 then x else BitVec.ofInt 64 (x.toInt.tmod y.toInt)
def divU (x y : Word) : Word := if y = 0 then ~~~0 else x / y
def remU (x y : Word) : Word := if y = 0 then x else x % y
/-- clz(x, 64). -/
def clz64 (x : Word) : Nat := 64 - bitLen x.toNat
/-- popcount of the low `n` bits. -/
def popN (x : Word) (n : Nat) : Nat := ((List.range n).filter (bitAt x)).length
/-- ext (R277): `w` bits of x from bit y[5:0] on. -/
def extract (x y : Word) (w : Nat) (sgn : Bool) : Word :=
  let f := fld x (fld y 0 6) w
  if sgn && f / 2 ^ (w - 1) % 2 = 1 then BitVec.ofInt 64 ((f : Int) - 2 ^ w) else BitVec.ofNat 64 f
/-- Clamping to a range. -/
def clampI (lo hi x : Int) : Int := max lo (min hi x)
/-- adds (R277). -/
def addSat (uns : Bool) (x y : Word) : Word :=
  if uns then BitVec.ofNat 64 (min (x.toNat + y.toNat) (2 ^ 64 - 1))
  else BitVec.ofInt 64 (clampI (-2 ^ 63) (2 ^ 63 - 1) (x.toInt + y.toInt))
/-- setkey (R277). -/
def setKey (x y : Word) : Word := putFld x 48 4 (fld y 0 4)

/-- A scalar of the context in focus, in the state before the bundle (R267). -/
def State.S (s : State) (r : Reg) : Word := s.cx.a.rdS r.toNat
/-- A predicate of the context in focus. -/
def State.P (s : State) (p : PReg) : Bool := s.cx.a.rdP p.toNat
/-- A scalar result. -/
def State.landS (s : State) (lat : Nat) (d : Reg) (v : Word) : State := s.land lat [.s d.toNat v]
/-- A predicate result. -/
def State.landP (s : State) (p : PReg) (b : Bool) : State := s.land 1 [.p p.toNat b]

/-! ### Register arithmetic (R275) -/

/-- add: sum modulo 2^64. -/
def execAdd (d a b : Reg) (s : State) : Out :=
  s.guarded (.add d a b) fun s => let x := s.S a; let y := s.S b; s.landS 1 d (x + y)
/-- sub: difference. -/
def execSub (d a b : Reg) (s : State) : Out :=
  s.guarded (.sub d a b) fun s => let x := s.S a; let y := s.S b; s.landS 1 d (x - y)
/-- mul: low half of the product. -/
def execMul (d a b : Reg) (s : State) : Out :=
  s.guarded (.mul d a b) fun s => let x := s.S a; let y := s.S b; s.landS 3 d (x * y)
/-- mulh: high half of the signed product. -/
def execMulh (d a b : Reg) (s : State) : Out :=
  s.guarded (.mulh d a b) fun s => let x := s.S a; let y := s.S b; s.landS 3 d (mulHi true x y)
/-- mulhu: high half of the unsigned product. -/
def execMulhu (d a b : Reg) (s : State) : Out :=
  s.guarded (.mulhu d a b) fun s => let x := s.S a; let y := s.S b; s.landS 3 d (mulHi false x y)
/-- div: signed quotient (R276). -/
def execDiv (d a b : Reg) (s : State) : Out :=
  s.guarded (.div d a b) fun s => let x := s.S a; let y := s.S b; s.landS 18 d (divS x y)
/-- divu: unsigned quotient (R276). -/
def execDivu (d a b : Reg) (s : State) : Out :=
  s.guarded (.divu d a b) fun s => let x := s.S a; let y := s.S b; s.landS 18 d (divU x y)
/-- rem: signed remainder (R276). -/
def execRem (d a b : Reg) (s : State) : Out :=
  s.guarded (.rem d a b) fun s => let x := s.S a; let y := s.S b; s.landS 18 d (remS x y)
/-- remu: unsigned remainder (R276). -/
def execRemu (d a b : Reg) (s : State) : Out :=
  s.guarded (.remu d a b) fun s => let x := s.S a; let y := s.S b; s.landS 18 d (remU x y)
/-- and: bitwise and. -/
def execAnd (d a b : Reg) (s : State) : Out :=
  s.guarded (.and d a b) fun s => let x := s.S a; let y := s.S b; s.landS 1 d (x &&& y)
/-- or: bitwise or. -/
def execOr (d a b : Reg) (s : State) : Out :=
  s.guarded (.or d a b) fun s => let x := s.S a; let y := s.S b; s.landS 1 d (x ||| y)
/-- xor: bitwise exclusive or. -/
def execXor (d a b : Reg) (s : State) : Out :=
  s.guarded (.xor d a b) fun s => let x := s.S a; let y := s.S b; s.landS 1 d (x ^^^ y)
/-- andn: and with the complement. -/
def execAndn (d a b : Reg) (s : State) : Out :=
  s.guarded (.andn d a b) fun s => let x := s.S a; let y := s.S b; s.landS 1 d (x &&& ~~~y)
/-- shl: left shift by S2[5:0]. -/
def execShl (d a b : Reg) (s : State) : Out :=
  s.guarded (.shl d a b) fun s => let x := s.S a; let y := s.S b; s.landS 1 d (x <<< fld y 0 6)
/-- shr: logical right shift. -/
def execShr (d a b : Reg) (s : State) : Out :=
  s.guarded (.shr d a b) fun s => let x := s.S a; let y := s.S b; s.landS 1 d (x >>> fld y 0 6)
/-- sar: arithmetic right shift. -/
def execSar (d a b : Reg) (s : State) : Out :=
  s.guarded (.sar d a b) fun s => let x := s.S a; let y := s.S b; s.landS 1 d (x.sshiftRight (fld y 0 6))
/-- min: signed minimum. -/
def execMin (d a b : Reg) (s : State) : Out :=
  s.guarded (.min d a b) fun s => let x := s.S a; let y := s.S b; s.landS 1 d (if y.slt x then y else x)
/-- max: signed maximum. -/
def execMax (d a b : Reg) (s : State) : Out :=
  s.guarded (.max d a b) fun s => let x := s.S a; let y := s.S b; s.landS 1 d (if x.slt y then y else x)
/-- minu: unsigned minimum. -/
def execMinu (d a b : Reg) (s : State) : Out :=
  s.guarded (.minu d a b) fun s => let x := s.S a; let y := s.S b; s.landS 1 d (if y.ult x then y else x)
/-- maxu: unsigned maximum. -/
def execMaxu (d a b : Reg) (s : State) : Out :=
  s.guarded (.maxu d a b) fun s => let x := s.S a; let y := s.S b; s.landS 1 d (if x.ult y then y else x)
/-- clz: leading zeros; 64 of 0. -/
def execClz (d a : Reg) (s : State) : Out :=
  s.guarded (.clz d a) fun s => s.landS 1 d (BitVec.ofNat 64 (clz64 (s.S a)))
/-- popc: number of one bits. -/
def execPopc (d a : Reg) (s : State) : Out :=
  s.guarded (.popc d a) fun s => s.landS 1 d (BitVec.ofNat 64 (popN (s.S a) 64))
/-- ext (R277). -/
def execExt (d a b : Reg) (w : BitVec 6) (sgn : Bool) (s : State) : Out :=
  s.guarded (.ext d a b w sgn) fun s => s.landS 1 d (extract (s.S a) (s.S b) (w.toNat + 1) sgn)
/-- sel (R277). -/
def execSel (d a b : Reg) (p : PReg) (neg : Bool) (s : State) : Out :=
  s.guarded (.sel d a b p neg) fun s => s.landS 1 d (if s.P p != neg then s.S a else s.S b)
/-- adds (R277). -/
def execAdds (d a b : Reg) (uns : Bool) (s : State) : Out :=
  s.guarded (.adds d a b uns) fun s => s.landS 1 d (addSat uns (s.S a) (s.S b))
/-- setkey (R277). -/
def execSetkey (d a b : Reg) (s : State) : Out :=
  s.guarded (.setkey d a b) fun s => s.landS 1 d (setKey (s.S a) (s.S b))

/-! ### Immediates (R278) -/

def execAddi (d a : Reg) (imm : BitVec 38) (s : State) : Out :=
  s.guarded (.addi d a imm) fun s => let x := s.S a; let v := imm.signExtend 64; s.landS 1 d (x + v)
def execAndi (d a : Reg) (imm : BitVec 38) (s : State) : Out :=
  s.guarded (.andi d a imm) fun s => let x := s.S a; let v := imm.signExtend 64; s.landS 1 d (x &&& v)
def execOri (d a : Reg) (imm : BitVec 38) (s : State) : Out :=
  s.guarded (.ori d a imm) fun s => let x := s.S a; let v := imm.signExtend 64; s.landS 1 d (x ||| v)
def execXori (d a : Reg) (imm : BitVec 38) (s : State) : Out :=
  s.guarded (.xori d a imm) fun s => let x := s.S a; let v := imm.signExtend 64; s.landS 1 d (x ^^^ v)
def execLih (d a : Reg) (imm : BitVec 38) (s : State) : Out :=
  s.guarded (.lih d a imm) fun s => let x := s.S a; let v := imm.signExtend 64; s.landS 1 d ((v <<< 32) ||| (x.setWidth 32).setWidth 64)
def execShli (d a : Reg) (sh : BitVec 6) (s : State) : Out :=
  s.guarded (.shli d a sh) fun s => let x := s.S a; s.landS 1 d (x <<< sh.toNat)
def execShri (d a : Reg) (sh : BitVec 6) (s : State) : Out :=
  s.guarded (.shri d a sh) fun s => let x := s.S a; s.landS 1 d (x >>> sh.toNat)
def execSari (d a : Reg) (sh : BitVec 6) (s : State) : Out :=
  s.guarded (.sari d a sh) fun s => let x := s.S a; s.landS 1 d (x.sshiftRight sh.toNat)
def execMovi (d : Reg) (imm : BitVec 38) (s : State) : Out :=
  s.guarded (.movi d imm) fun s => s.landS 1 d (imm.signExtend 64)

/-! ### Compares and predicate logic (R279, R280) -/

def execCmp (p : PReg) (cc : BitVec 4) (a b : Reg) (s : State) : Out :=
  s.guarded (.cmp p cc a b) fun s => s.landP p (cmpCc cc (s.S a) (s.S b))
def execCmpi (p : PReg) (cc : BitVec 4) (a : Reg) (imm : BitVec 36) (s : State) : Out :=
  s.guarded (.cmpi p cc a imm) fun s => s.landP p (cmpCc cc (s.S a) (imm.signExtend 64))
def execPand (p a : PReg) (na : Bool) (b : PReg) (nb : Bool) (s : State) : Out :=
  s.guarded (.pand p a na b nb) fun s => let x := s.P a != na; let y := s.P b != nb; s.landP p (x && y)
def execPor (p a : PReg) (na : Bool) (b : PReg) (nb : Bool) (s : State) : Out :=
  s.guarded (.por p a na b nb) fun s => let x := s.P a != na; let y := s.P b != nb; s.landP p (x || y)
def execPxor (p a : PReg) (na : Bool) (b : PReg) (nb : Bool) (s : State) : Out :=
  s.guarded (.pxor p a na b nb) fun s => let x := s.P a != na; let y := s.P b != nb; s.landP p (x != y)
def execPandn (p a : PReg) (na : Bool) (b : PReg) (nb : Bool) (s : State) : Out :=
  s.guarded (.pandn p a na b nb) fun s => let x := s.P a != na; let y := s.P b != nb; s.landP p (x && !y)

/-! ### CSR access (R288) -/

/-- csrr: the CSR's value at issue, from before the bundle (R9). -/
def execCsrr (d : Reg) (num : BitVec 13) (s : State) : Out :=
  s.guarded (.csrr d num) fun s => s.landS 1 d (s.csrSeen s.foc.core s.foc.ctx num.toNat)
def execCsrw (num : BitVec 13) (a : Reg) (s : State) : Out :=
  s.guarded (.csrw num a) fun s => s.csrWrite .write num (s.S a)
def execCsrs (num : BitVec 13) (a : Reg) (s : State) : Out :=
  s.guarded (.csrs num a) fun s => s.csrWrite .set num (s.S a)
def execCsrc (num : BitVec 13) (a : Reg) (s : State) : Out :=
  s.guarded (.csrc num a) fun s => s.csrWrite .clear num (s.S a)

/-! ### Loop counts (R262) -/

def execLcw (n : BitVec 3) (a : Reg) (s : State) : Out :=
  s.guarded (.lcw n a) fun s => s.land 1 [.lc n.toNat ((s.S a).setWidth 32)]
def execLcr (d : Reg) (n : BitVec 3) (s : State) : Out :=
  s.guarded (.lcr d n) fun s => s.landS 1 d ((mget 0 s.cx.a.lc n.toNat).setWidth 64)

end Sys2Proof.Machine
end

