-- ==== Sys2Proof/Machine/Control.lean ====
section
/-! DEFINITION. Control transfer, the instruction-store operations, traps raised by software, leaving and yielding
(R281 to R298): what each does when its slot issues, and what takes effect after the last slot of its bundle. -/

namespace Sys2Proof.Machine

/-! ### The core local cache as an acquire leaves it (R108, R112) -/

/-- Lines that an early-visible store which has left its queue holds (R108). -/
def Entry.held (e : Entry) : List Nat :=
  e.pieces.flatMap fun p => match p.tr with | some t => if t.early then linesOf t.pa p.len else [] | none => []
/-- Lines held by early-visible stores of a core's contexts (R108). -/
def State.heldLines (s : State) (n : CoreN) : List Nat :=
  allCtx.flatMap fun c => ((s.ctx n c).sq ++ (s.ctx n c).rq).flatMap Entry.held
def Core.cached (k : Core) (pa : Nat) : Option VReg := (k.cache.find? fun l => l.1 = pa / 64).map (·.2)
def putLine (v : VReg) (o : Nat) (bs : List Byte) : VReg :=
  (bs.foldl (fun (p : VReg × Nat) (b : Byte) =>
    ((p.1 &&& ~~~((0xFF : VReg) <<< (8 * p.2))) ||| ((b.setWidth 512 : VReg) <<< (8 * p.2)), p.2 + 1)) (v, o)).1
/-- Bytes that early-visible stores of some contexts of a core hold in its local cache (R108). -/
def State.heldByte (s : State) (n : CoreN) (cs : List CtxN) (pa : Nat) : Bool :=
  cs.any fun c => ((s.ctx n c).sq ++ (s.ctx n c).rq).any fun e => e.pieces.any fun p => match p.tr with
    | some t => t.early && t.pa ≤ pa && pa < t.pa + p.len
    | none => false
/-- A present line takes written bytes. -/
def State.cacheWrite (s : State) (n : CoreN) (pa : Nat) (bs : List Byte) : State :=
  let k := s.core n
  match k.cached pa with
  | some v => s.setCore n { k with
      cache := mput k.cache (pa / 64) (putLine v (pa % 64) bs)
      cpoison := if bs.length = 64 then k.cpoison.filter (· ≠ pa / 64) else k.cpoison }
  | none => s
/-- A present line takes the bytes that its home has, but for those that early-visible stores hold in it (R97); of a poisoned home, its
poison (R79). -/
def State.cacheFresh (s : State) (n : CoreN) (pa : Nat) : State :=
  match (s.core n).cached pa with
  | none => s
  | some v =>
    let b := pa / 64 * 64
    let s := s.eccRead (pa / 64)
    if s.poisoned pa then s.setCore n { s.core n with cpoison := pa / 64 :: (s.core n).cpoison.filter (· ≠ pa / 64) }
    else
    let bs := (List.range 64).map fun i => if s.heldByte n allCtx (b + i) then v.extractLsb' (8 * i) 8 else s.rdByte (b + i)
    s.cacheWrite n b bs
/-- The core discards every line of its local cache that is not held. A held line keeps the bytes that early-visible stores have written in
it and takes the others afresh from its home, so that no load after the acquire reads older ones there (R111, R112). -/
def State.discardCache (s : State) (n : CoreN) : State :=
  let held := s.heldLines n
  let s := s.setCore n { s.core n with cache := (s.core n).cache.filter fun l => held.contains l.1 }
  (s.core n).cache.foldl (fun s l => s.cacheFresh n (64 * l.1)) s

/-! ### Berth starts (R66, R461) -/

/-- The state a berth arrival gives a dormant context. -/
def Ctx.berthState (x : Ctx) (b : Berth) : Ctx :=
  let sr := msets 0 x.a.sr [(1, BitVec.ofNat 64 b.off), (2, BitVec.ofNat 64 b.bytes.length), (3, b.arg), (4, b.sender)]
  { x with
    a := { x.a with
      sr := sr, sticky := [], rep := 0, pc := b.hdl, donemask := 0, trapcause := 0, trappc := 0, trapslot := 0
      traparg := 0, trapvec := 0, ctxmode := 0, cut := .none }
    run := .live, tgt := none, post := none, opened := false, done := 0, taken := 0, owed := 0, csrOld := []
    reissue := false, retired := false }
/-- The oldest waiting arrival starts the lowest dormant context; its start is an acquire at cluster scope (R126). -/
def State.berthServe (s : State) (n : CoreN) : State :=
  match (s.core n).berthq, allCtx.find? fun c => (s.ctx n c).run == .dormant with
  | b :: t, some c =>
    let s := s.setCore n { s.core n with berthq := t }
    (s.setCtx n c ((s.ctx n c).berthState b).checkpoint).discardCache n
  | _, _ => s

/-! ### Leaving (R202, R295, R297, R298) -/

/-- A tile load that a multicast write of the store queue still waits for: it is performed even when nothing of it lands (R123). -/
def Ctx.feeds (x : Ctx) (e : Entry) : Bool :=
  x.sq.any fun q => match q.kind with | .mcast _ l _ => l = e.seq | _ => false
/-- Results in flight, the pound and the loads of a context that leaves are dropped; engine order goes back to what has landed (R295). -/
def Ctx.dropWork (x : Ctx) : Ctx :=
  { x with
    pend := [], ckPend := [], pound := [], a := { x.a with ev := x.a.acc }, lq := x.lq.filter x.feeds, marks := x.marks.filter fun m => x.sq.any fun e => m.seq < e.seq
    mon := if x.mon = .off then .off else .lost
    monwait := none, implAt := none, overflowed := false, fetchWait := none, fpark := none, fwoken := false }
/-- The residency is on its way to its end, with a reason of R211. -/
def State.beginEnd (s : State) (n : CoreN) (c : CtxN) (reason : Nat) : State :=
  (s.setCtx n c { (s.ctx n c).dropWork with run := .ending reason, post := none }).dropMons n
/-- Request a pre-emption: a dormant context is pre-empted at once, another at its next checkpoint (R407); one that is on its way out already
goes on as it began. -/
def State.askPreempt (s : State) (n : CoreN) (c : CtxN) (reason : Nat) : State :=
  let x := s.ctx n c
  let leaving : Bool := match x.prior with | .ending _ => x.held | _ => false
  match x.run with
  | .vacant | .ending _ => s
  | .dormant => s.setCtx n c { x with run := .ending reason, preq := some 0 }
  | _ => if leaving then s else s.setCtx n c { x with preq := some reason }
/-- Fields of the record that SUSPEND writes (R294); `pa` is RADDR. -/
def Ctx.suspRecord (x : Ctx) (rcond : Nat) (pa : Nat) (rval : BitVec 32) : Ctx :=
  let w0 := putFld (putFld (x.w 0) 60 4 1) 56 4 rcond
  { x with recd := msets 0 x.recd [(0, w0), (6, putFld (x.w 6) 32 32 rval.toNat), (7, putFld (x.w 7) 0 52 pa)] }

/-! ### Loops (R263) -/

/-- LOOPN on what it has read, its body of `len` bundles starting at the next bundle. -/
def Arch.loopn (a : Arch) (q : PostIn) (n : BitVec 3) (len : Nat) (after : Word) : Arch :=
  let ds := List.range n.toNat
  let a := { a with
    lbnd := msets 0 a.lbnd (ds.map fun d => (d, mget 0 q.lc d))
    lstr := msets 0 a.lstr ((List.range 20).map fun i => (i, q.v.extractLsb' (16 * (8 * (i / 5) + i % 5 + 1)) 16)) }
  if ds.any fun d => mget 0 a.lbnd d = 0 then { a with pc := after }
  else { a with
    lc := msets 0 a.lc (ds.map fun d => (d, 0))
    body := a.pc
    llen := BitVec.ofNat 4 (len - 1)
    lpos := 0
    dims := n }
/-- R265 from dimension d on: the indices, and whether the body starts again. -/
def nestAdvance (dims : Nat) (lbnd : SMap (BitVec 32)) : Nat → Nat → SMap (BitVec 32) → SMap (BitVec 32) × Bool
  | 0, _, lc => (lc, false)
  | fuel + 1, d, lc =>
    if dims ≤ d then (lc, false)
    else
      let v := mget 0 lc d + 1
      if v < mget 0 lbnd d then (mset 0 lc d v, true) else nestAdvance dims lbnd fuel (d + 1) (mset 0 lc d 0)
/-- After the last issue of the body's bundle at `pos` (R265); `e` says that it is the last bundle of the body. -/
def Arch.loopNext (a : Arch) (pos : Nat) (e : Bool) : Arch :=
  if !e then { a with lpos := BitVec.ofNat 4 (pos + 1) }
  else
    let r := nestAdvance a.dims.toNat a.lbnd 7 0 a.lc
    if r.2 then { a with lc := r.1, lpos := 0, pc := a.body } else { a with lc := r.1, dims := 0 }

/-! ### What follows the last slot of a bundle -/

/-- The lines an ifence discards: those that overlap [start & ~63, start + 64 n). -/
def ifenceHits (asid : BitVec 16) (start : Word) (n : Nat) (l : ILine) : Bool :=
  l.asid == asid && fld start 6 42 ≤ l.line && 64 * l.line < fld start 0 48 + 64 * n
/-- R285: lines of both halves go, and so does their staging. -/
def State.ifenceDiscard (s : State) (n : CoreN) (c : CtxN) (hit : ILine → Bool) : State :=
  let k := s.core n
  let asid := (s.ctx n c).asid
  s.setCore n { k with
    istore := k.istore.filter fun l => !hit l
    stage := k.stage.filter fun q => !((s.ctx n (ctxNo q.1)).asid == asid && hit ⟨false, asid, q.2, 0⟩) }
/-- Stores a context has released have been performed (R285, R132). -/
def Ctx.drained (x : Ctx) : Bool := x.sq.isEmpty && x.rq.isEmpty
/-- A software trap, once every slot of its bundle has issued (R292). -/
def State.softTrap (s : State) (n : CoreN) (c : CtxN) (code : BitVec 8) : State :=
  s.takeLocal n c ⟨3, 0, 1, code.setWidth 64, (s.ctx n c).a.pc, 0, 0, 0⟩
/-- TRAPPC as it was before the bundle (R9). -/
def Ctx.eretPc (x : Ctx) : Word := ((x.csrOld.find? fun p => p.1 = 0x31).map (·.2)).getD x.a.trappc
/-- eret (R293): transfer to TRAPPC; a DONEMASK that is not zero leaves the rest of that bundle to
issue in the eret's own cycle (R242), its transfer and control operation to follow. -/
def Ctx.eret (x : Ctx) : Ctx :=
  let d := x.a.donemask.toNat
  { x with
    a := { x.a.eret with pc := x.eretPc, rep := x.a.cut.rep, cut := .none }
    reissue := x.a.cut.reissue
    tgt := x.a.cut.tgt
    post := if d ≠ 0 then x.a.cut.post else none
    postIn := x.a.cut.inp
    csrOld := if d ≠ 0 then x.a.cut.old else []
    opened := d ≠ 0
    done := d
    taken := if d ≠ 0 then 1 else 0 }
/-- The effect of the bundle's control operation, once every slot of its issue has issued (R281, R292) and no stop is held, if what
it waits for holds. -/
def State.settle (s : State) (n : CoreN) (c : CtxN) : State :=
  let x := s.ctx n c
  let x' := { x with post := none }
  match if x.opened || x.held then none else x.post with
  | some (.trap code) => (s.setCtx n c x').softTrap n c code
  | some .eret => s.setCtx n c x'.eret
  | some (.loopn _ m) =>
    match bodyAt (s.core n) x.asid x.a.pc 16 0 with
    | .ok len after => s.setCtx n c { x' with a := x.a.loopn x.postIn m len after }
    | .miss l => s.setCtx n c { x with fetchWait := some l }
    | .long => s
  | some (.ifence _ m) =>
    if x.drained then
      (s.setCtx n c x').ifenceDiscard n c (ifenceHits x.asid x.postIn.addr (m.toNat + 1))
    else s
  | some .ifenceAll =>
    if x.drained then (s.setCtx n c x').ifenceDiscard n c fun l => l.asid == x.asid else s
  | some .iswap =>
    let k := s.core n
    if k.stage.isEmpty then (s.setCore n { k with fh := !k.fh }).setCtx n c x' else s
  | some (.suspend cond _ _) =>
    if cond = 0 then (s.setCtx n c (x'.suspRecord 0 0 0)).beginEnd n c 0
    else if x.lq.any fun e => match e.kind with | .susp _ _ => true | _ => false then s
    else s.beginEnd n c 0
  | some .suspendDorm =>
    let s := (s.setCtx n c { x'.dropWork with run := .dormant }).dropMons n
    match x.preq with
    | some r => s.askPreempt n c r
    | none => s.berthServe n
  | some .retire => s.beginEnd n c 4
  | _ => s
/-- The slot in focus has a control operation whose effect follows the last slot of its bundle. -/
def State.after (s : State) (i : Instr) : State := s.setCx { s.cx with post := some i }
/-- The same with what it has read. -/
def State.afterWith (s : State) (i : Instr) (q : PostIn) : State := s.setCx { s.cx with post := some i, postIn := q }

/-! ### Control transfer (R281 to R283) -/

/-- The transfer of the bundle in focus is taken. -/
def State.jump (s : State) (t : Word) : State := s.setCx { s.cx with tgt := some t }
/-- Target of a branch: the offset counts words from the bundle address. -/
def State.target (s : State) (off : BitVec 45) : Word := s.cx.a.pc + (off.signExtend 64) * 4
/-- s63 := address of the next bundle, latency 1. -/
def State.link (s : State) : State := s.landS 1 63 s.cx.npc

/-- br: taken when P[PG] xor PN (R282). -/
def execBr (p : PReg) (neg : Bool) (off : BitVec 45) (s : State) : Out :=
  s.guarded (.br p neg off) fun s => if s.P p != neg then s.jump (s.target off) else s
/-- call: a br that writes s63 when taken. -/
def execCall (p : PReg) (neg : Bool) (off : BitVec 45) (s : State) : Out :=
  s.guarded (.call p neg off) fun s => if s.P p != neg then s.link.jump (s.target off) else s
/-- jr (R283). -/
def execJr (a : Reg) (s : State) : Out := s.guarded (.jr a) fun s => s.jump (s.S a)
/-- callr: the target is the value from before the bundle. -/
def execCallr (a : Reg) (s : State) : Out := s.guarded (.callr a) fun s => s.link.jump (s.S a)
/-- ret: continue at s63. -/
def execRet (s : State) : Out := s.guarded .ret fun s => s.jump (s.S 63)
/-- loopn (R263); it takes effect for the next bundle. -/
def execLoopn (v : VNum) (n : BitVec 3) (s : State) : Out := s.guarded (.loopn v n) fun s =>
  s.afterWith (.loopn v n) ⟨0, s.cx.a.rdV v.toNat, s.cx.a.lc⟩

/-! ### The instruction store (R285, R286) -/

/-- ifence: the discard follows the bundle, once the context's released stores are performed. -/
def execIfence (a : Reg) (n : BitVec 10) (s : State) : Out := s.guarded (.ifence a n) fun s =>
  s.afterWith (.ifence a n) ⟨s.S a, 0, []⟩
def execIfenceAll (s : State) : Out := s.guarded .ifenceAll fun s => s.after .ifenceAll
/-- iswap.stage: fills of n lines are requested; issue does not wait. A line that is no address a fetch could have is not staged. -/
def execIswapStage (a : Reg) (n : BitVec 10) (s : State) : Out :=
  s.guarded (.iswapStage a n) fun s =>
    let k := s.core s.foc.core
    let l := ((List.range (n.toNat + 1)).map fun i => (s.foc.ctx.toNat, (s.S a).toNat / 64 + i)).filter fun q => q.2 < 2 ^ 42
    (s.keepCsr 0x07).setCore s.foc.core { k with stage := k.stage ++ l }
/-- iswap: the halves are exchanged once every staging request of the core has finished. -/
def execIswap (s : State) : Out := s.guarded .iswap fun s => s.after .iswap

/-! ### Traps raised by software (R292, R293) -/

/-- trap n: taken once every slot of its bundle has issued (`State.softTrap`). -/
def execTrap (n : BitVec 8) (s : State) : Out := s.guarded (.trap n) fun s => s.after (.trap n)
/-- eret (`Ctx.eret`). -/
def execEret (s : State) : Out := s.guarded .eret fun s => s.after .eret

/-! ### Leaving, yielding and retiring (R294 to R297) -/

/-- suspend: after its interval has retired, S[A] is translated as a load would be; the record's fields follow. -/
def execSuspend (c : BitVec 4) (a v : Reg) (s : State) : Out :=
  s.guarded (.suspend c a v) fun s =>
    let s' := s.after (.suspend c a v)
    if c = 0 then s'
    else
      let p := s.S a
      let len := if c = 1 then 8 else 4
      match issueTr s.cx s.foc.core ⟨true, false, false⟩ [⟨p, p, len, 0⟩] with
      | .bad sub ptr pa => s.permIssue sub 0 ptr pa
      | .ok ps =>
        if p.toNat % len ≠ 0 then s.permIssue 2 0 p ((firstPa ps).getD 0)
        else s'.toLq (s'.mkEntry (.susp c ((s.S v).setWidth 32)) ps [] none none)
/-- suspend.dorm (R295). -/
def execSuspendDorm (s : State) : Out := s.guarded .suspendDorm fun s => s.after .suspendDorm
/-- yield (R296): the selector passes over the context until the others that are ready now have issued, for at most 64 core
cycles. -/
def execYield (s : State) : Out :=
  s.guarded .yield fun s =>
    let n := s.foc.core
    let others := (allCtx.filter fun c => c != s.foc.ctx && s.ready n c).map (·.toNat)
    s.setCx { s.cx with yieldAt := some (s.core n).cyc.toNat, yieldSet := others }
/-- retire (R297). -/
def execRetire (s : State) : Out := s.guarded .retire fun s => s.after .retire

end Sys2Proof.Machine
end

