-- ==== Sys2Proof/Machine/Vector.lean ====
section
/-! DEFINITION. Vector operations (chapter 12): lanes, masks and counts, arithmetic, compares, conversions, quantization,
reductions, lane moves, approximations and random numbers. -/

namespace Sys2Proof.Machine

/-! ### Lanes (R304 to R307) -/

/-- Lane width in bits. -/
def tyW (t : BitVec 4) : Nat := 8 * laneBytes t
/-- elem(v, i, w). -/
def lane (w : Nat) (v : VReg) (i : Nat) : Nat := fld v (w * i) w
/-- Lanes packed from lane 0 on. -/
def packLanes (w : Nat) : List Nat → Nat
  | [] => 0
  | x :: t => x % 2 ^ w + 2 ^ w * packLanes w t
/-- A register from its lanes. -/
def ofLanes (w : Nat) (l : List Nat) : VReg := BitVec.ofNat 512 (packLanes w l)
/-- Integer value of a lane: signed for .i, unsigned for .z. -/
def laneInt (t : BitVec 4) (x : Nat) : Int := if t < 4 then sInt (tyW t) x else x
/-- An integer modulo 2^w. -/
def toLane (w : Nat) (z : Int) : Nat := (z % (2 ^ w : Int)).toNat
/-- Range of an integer type. -/
def tyMin (t : BitVec 4) : Int := if t < 4 then -2 ^ (tyW t - 1) else 0
def tyMax (t : BitVec 4) : Int := if t < 4 then 2 ^ (tyW t - 1) - 1 else 2 ^ tyW t - 1

/-- A vector register of the context in focus. -/
def State.V (s : State) (v : VNum) : VReg := s.cx.a.rdV v.toNat
/-- A valid count (R204): as given, or more than any lane. -/
def State.cnt (s : State) (c : Option Reg) : Nat :=
  match c with
  | none => 4096
  | some r => (s.S r).toNat
/-- Governing mask of a word (R305). -/
def State.vmask (s : State) (o : VOp) (i : Nat) : Bool := !o.mu || bitAt (s.cx.a.rdM o.mreg.toNat) i
/-- Inactive lanes merged with the result's lanes (R305, R306). A count of 0 lands the lanes of before the bundle (log entry 106). -/
def State.vmerge (s : State) (o : VOp) (f : Nat → Nat) : VReg :=
  let w := tyW o.ty
  let old := s.V o.vd
  ofLanes w ((List.range (laneCount o.ty)).map fun i =>
    if s.cnt o.vcnt ≤ i then lane w old i
    else if s.vmask o i then f i
    else if o.mz then 0 else lane w old i)
/-- A lanewise result. -/
def State.velem (s : State) (o : VOp) (lat : Nat) (f : Nat → Nat) : State :=
  s.land lat [.v o.vd.toNat (s.vmerge o f)]
/-- Lane i of the first, second and third source; the second may be a scalar (R307). -/
def State.vA (s : State) (o : VOp) (i : Nat) : Nat := lane (tyW o.ty) (s.V o.va) i
def State.vB (s : State) (o : VOp) (i : Nat) : Nat :=
  if bitAt o.fn 0 then fld (s.S (o.vb.setWidth 6)) 0 (tyW o.ty) else lane (tyW o.ty) (s.V o.vb) i
def State.vC (s : State) (o : VOp) (i : Nat) : Nat := lane (tyW o.ty) (s.V o.vc) i

/-! ### Lane arithmetic (R311, R312) -/

/-- Value of a float lane. -/
def laneVal (t : BitVec 4) (x : Nat) : Val := valOf (laneFmt t) x
/-- A two-source lane operation. -/
def laneBin (t : BitVec 4) (fi : Int → Int → Int) (ff : Val → Val → Val) (a b : Nat) : Nat :=
  if tyFloat t then rne (laneFmt t) (ff (laneVal t a) (laneVal t b)) else toLane (tyW t) (fi (laneInt t a) (laneInt t b))
/-- A three-source lane operation. -/
def laneTern (t : BitVec 4) (fi : Int → Int → Int → Int) (ff : Val → Val → Val → Val) (a b c : Nat) : Nat :=
  if tyFloat t then rne (laneFmt t) (ff (laneVal t a) (laneVal t b) (laneVal t c))
  else toLane (tyW t) (fi (laneInt t a) (laneInt t b) (laneInt t c))
/-- a below b, with -0 below +0. -/
def fltBelow (a b : Val) : Bool :=
  a.lt b || (match a, b with | .num na ma _, .num nb mb _ => ma == 0 && mb == 0 && na && !nb | _, _ => false)
/-- Minimum or maximum of two lanes. -/
def laneMM (mx : Bool) (t : BitVec 4) (a b : Nat) : Nat :=
  if tyFloat t then
    let x := laneVal t a
    let y := laneVal t b
    if x.isNan || y.isNan then (laneFmt t).nanCode
    else if fltBelow x y == mx then b else a
  else if decide (laneInt t a < laneInt t b) == mx then b else a
/-- Latency of an operation that differs for floats. -/
def vlat (t : BitVec 4) (int flt : Nat) : Nat := if tyFloat t then flt else int

def execVadd (o : VOp) (s : State) : Out :=
  s.guarded (.vadd o) fun s => s.velem o (vlat o.ty 2 4) fun i =>
    laneBin o.ty (fun x y => x + y) (fun x y => vsum [x, y]) (s.vA o i) (s.vB o i)
def execVsub (o : VOp) (s : State) : Out :=
  s.guarded (.vsub o) fun s => s.velem o (vlat o.ty 2 4) fun i =>
    laneBin o.ty (fun x y => x - y) (fun x y => vsum [x, y.neg]) (s.vA o i) (s.vB o i)
def execVmul (o : VOp) (s : State) : Out :=
  s.guarded (.vmul o) fun s => s.velem o (vlat o.ty 4 4) fun i =>
    laneBin o.ty (fun x y => x * y) (fun x y => vmul x y) (s.vA o i) (s.vB o i)
def execVfma (o : VOp) (s : State) : Out :=
  s.guarded (.vfma o) fun s => s.velem o 4 fun i =>
    laneTern o.ty (fun x y z => x * y + z) (fun x y z => vsum [vmul x y, z]) (s.vA o i) (s.vB o i) (s.vC o i)
def execVfms (o : VOp) (s : State) : Out :=
  s.guarded (.vfms o) fun s => s.velem o 4 fun i =>
    laneTern o.ty (fun x y z => x * y - z) (fun x y z => vsum [vmul x y, z.neg]) (s.vA o i) (s.vB o i) (s.vC o i)
def execVmin (o : VOp) (s : State) : Out :=
  s.guarded (.vmin o) fun s => s.velem o 2 fun i => laneMM false o.ty (s.vA o i) (s.vB o i)
def execVmax (o : VOp) (s : State) : Out :=
  s.guarded (.vmax o) fun s => s.velem o 2 fun i => laneMM true o.ty (s.vA o i) (s.vB o i)
/-- vabs: the sign bit of a float cleared; the magnitude of a signed integer. -/
def execVabs (o : VOp) (s : State) : Out :=
  s.guarded (.vabs o) fun s => s.velem o 2 fun i =>
    let x := s.vA o i
    if tyFloat o.ty then x % 2 ^ (tyW o.ty - 1) else toLane (tyW o.ty) (laneInt o.ty x).natAbs
/-- vneg: the sign bit of a float inverted. -/
def execVneg (o : VOp) (s : State) : Out :=
  s.guarded (.vneg o) fun s => s.velem o 2 fun i =>
    let x := s.vA o i
    if tyFloat o.ty then x ^^^ 2 ^ (tyW o.ty - 1) else toLane (tyW o.ty) (-laneInt o.ty x)
def execVadds (o : VOp) (s : State) : Out :=
  s.guarded (.vadds o) fun s => s.velem o 2 fun i =>
    toLane (tyW o.ty) (clampI (tyMin o.ty) (tyMax o.ty) (laneInt o.ty (s.vA o i) + laneInt o.ty (s.vB o i)))
def execVsubs (o : VOp) (s : State) : Out :=
  s.guarded (.vsubs o) fun s => s.velem o 2 fun i =>
    toLane (tyW o.ty) (clampI (tyMin o.ty) (tyMax o.ty) (laneInt o.ty (s.vA o i) - laneInt o.ty (s.vB o i)))
def execVmov (o : VOp) (s : State) : Out :=
  s.guarded (.vmov o) fun s => s.velem o 2 fun i => s.vA o i
/-- vmulh: bits 2w-1 to w of the product. -/
def execVmulh (o : VOp) (s : State) : Out :=
  s.guarded (.vmulh o) fun s => s.velem o 4 fun i =>
    toLane (tyW o.ty) (laneInt o.ty (s.vA o i) * laneInt o.ty (s.vB o i) / 2 ^ tyW o.ty)

/-! ### Logic and shifts (R313) -/

def execVand (o : VOp) (s : State) : Out :=
  s.guarded (.vand o) fun s => s.velem o 2 fun i => let x := s.vA o i; let y := s.vB o i; x &&& y
def execVor (o : VOp) (s : State) : Out :=
  s.guarded (.vor o) fun s => s.velem o 2 fun i => let x := s.vA o i; let y := s.vB o i; x ||| y
def execVxor (o : VOp) (s : State) : Out :=
  s.guarded (.vxor o) fun s => s.velem o 2 fun i => let x := s.vA o i; let y := s.vB o i; x ^^^ y
def execVandn (o : VOp) (s : State) : Out :=
  s.guarded (.vandn o) fun s => s.velem o 2 fun i => let x := s.vA o i; let y := s.vB o i; x &&& (2 ^ tyW o.ty - 1 - y)
def execVshl (o : VOp) (s : State) : Out :=
  s.guarded (.vshl o) fun s => s.velem o 2 fun i =>
    let w := tyW o.ty; let x := s.vA o i; let k := s.vB o i % w; x * 2 ^ k % 2 ^ w
def execVshr (o : VOp) (s : State) : Out :=
  s.guarded (.vshr o) fun s => s.velem o 2 fun i =>
    let w := tyW o.ty; let x := s.vA o i; let k := s.vB o i % w; x / 2 ^ k
def execVsar (o : VOp) (s : State) : Out :=
  s.guarded (.vsar o) fun s => s.velem o 2 fun i =>
    let w := tyW o.ty; let x := s.vA o i; let k := s.vB o i % w; toLane w (sInt w x / 2 ^ k)

/-! ### Compares, select and masks (R314 to R316) -/

/-- cc of R314 on two lanes. -/
def laneCc (cc : Nat) (t : BitVec 4) (a b : Nat) : Bool :=
  if tyFloat t then
    let x := laneVal t a
    let y := laneVal t b
    let nan := x.isNan || y.isNan
    match cc with
    | 0 => x.eqv y
    | 1 => !x.eqv y
    | 2 => x.lt y
    | 3 => !nan && !x.lt y
    | 4 => y.lt x
    | 5 => !nan && !y.lt x
    | _ => nan
  else
    let x := laneInt t a
    let y := laneInt t b
    match cc with
    | 0 => x == y
    | 1 => x != y
    | 2 => x < y
    | 3 => y ≤ x
    | 4 => y < x
    | _ => x ≤ y
/-- A number from its bits, lowest first. -/
def ofBits : List Bool → Nat
  | [] => 0
  | b :: t => (if b then 1 else 0) + 2 * ofBits t
/-- vcmp: bits at or above the lane count are 0. -/
def execVcmp (o : VOp) (s : State) : Out :=
  s.guarded (.vcmp o) fun s =>
    let w := tyW o.ty
    let old := s.cx.a.rdM o.vd.toNat
    let b (i : Nat) := if bitAt o.fn 4 then fld (s.S (o.vb.setWidth 6)) 0 w else lane w (s.V o.vb) i
    s.land 2 [.m o.vd.toNat (BitVec.ofNat 64 (ofBits ((List.range (laneCount o.ty)).map fun i =>
      if s.cnt o.vcnt ≤ i then bitAt old i
      else if s.vmask o i then laneCc (fld o.fn 0 4) o.ty (s.vA o i) (b i)
      else !o.mz && bitAt old i)))]
/-- vsel: the mask selects. -/
def execVsel (o : VOp) (s : State) : Out :=
  s.guarded (.vsel o) fun s =>
    let m := s.cx.a.rdM o.mreg.toNat
    s.velem o 2 fun i => if bitAt m i then s.vA o i else lane (tyW o.ty) (s.V o.vb) i

def execMand (o : VOp) (s : State) : Out :=
  s.guarded (.mand o) fun s =>
    let x := s.cx.a.rdM o.va.toNat; let y := s.cx.a.rdM o.vb.toNat; s.land 1 [.m o.vd.toNat (x &&& y)]
def execMor (o : VOp) (s : State) : Out :=
  s.guarded (.mor o) fun s =>
    let x := s.cx.a.rdM o.va.toNat; let y := s.cx.a.rdM o.vb.toNat; s.land 1 [.m o.vd.toNat (x ||| y)]
def execMxor (o : VOp) (s : State) : Out :=
  s.guarded (.mxor o) fun s =>
    let x := s.cx.a.rdM o.va.toNat; let y := s.cx.a.rdM o.vb.toNat; s.land 1 [.m o.vd.toNat (x ^^^ y)]
def execMandn (o : VOp) (s : State) : Out :=
  s.guarded (.mandn o) fun s =>
    let x := s.cx.a.rdM o.va.toNat; let y := s.cx.a.rdM o.vb.toNat; s.land 1 [.m o.vd.toNat (x &&& ~~~y)]
/-- mpop: one bits of the lanes of the type. -/
def execMpop (o : VOp) (s : State) : Out :=
  s.guarded (.mpop o) fun s =>
    s.land 2 [.s o.vd.toNat (BitVec.ofNat 64 (popN (s.cx.a.rdM o.va.toNat) (laneCount o.ty)))]

/-! ### Conversions (R317, R318) -/

/-- Rounding mode of FN[2:0]. -/
def rmOf (fn : BitVec 5) : Rm := match fld fn 0 3 with | 0 => .rne | 1 => .rz | 2 => .ru | _ => .rd
/-- A value rounded to an integer. -/
def roundInt (rm : Rm) (neg : Bool) (m : Nat) (e : Int) : Int :=
  let q : Int := if 0 ≤ e then (m * 2 ^ e.toNat : Nat) else (roundShr rm neg m (-e).toNat : Nat)
  if neg then -q else q
/-- One lane converted from type u to type t. -/
def cvtLane (rm : Rm) (sat : Bool) (t u : BitVec 4) (x : Nat) : Nat :=
  match tyFloat u, tyFloat t with
  | true, true => encVal (laneFmt t) rm (laneVal u x)
  | true, false =>
    match laneVal u x with
    | .nan => 0
    | .inf neg => toLane (tyW t) (if neg then tyMin t else tyMax t)
    | .num neg m e => toLane (tyW t) (clampI (tyMin t) (tyMax t) (roundInt rm neg m e))
  | false, true =>
    let z := laneInt u x
    encVal (laneFmt t) rm (.num (z < 0) z.natAbs 0)
  | false, false =>
    let z := laneInt u x
    toLane (tyW t) (if sat then clampI (tyMin t) (tyMax t) z else z)
/-- vcvt: lanes outside a narrowing's part keep their value whatever the mask says. -/
def execVcvt (o : VOp) (s : State) : Out :=
  s.guarded (.vcvt o) fun s =>
    let t := o.ty
    let u := o.srcTy
    let wt := tyW t
    let wu := tyW u
    let n := 512 / max wt wu
    let p := o.part
    let c := cvtLane (rmOf o.fn) (bitAt o.fn 3) t u
    let src (j : Nat) := lane wu (s.V o.va) j
    let r := s.vmerge o fun i => c (src (if wt < wu then i - p * n else if wu < wt then p * n + i else i))
    let old := s.V o.vd
    s.land 4 [.v o.vd.toNat (if wt < wu then
      ofLanes wt ((List.range (laneCount t)).map fun i =>
        if p * n ≤ i && i < p * n + n then lane wt r i else lane wt old i) else r)]

/-! ### Quantization (R319, R320) -/

/-- Elements 0 to 35 of a block's source. -/
def State.vrun36 (s : State) (v : VNum) (u : BitVec 4) : List Nat :=
  let w := tyW u
  let l := 512 / w
  (List.range 36).map fun e => lane w (s.V (v + BitVec.ofNat 10 (e / l))) (e % l)
def execVqnt (o : VOp) (s : State) : Out :=
  s.guarded (.vqnt o) fun s =>
    let u := o.srcTy
    let xs := (s.vrun36 o.va u).map (laneVal u)
    let sc := qscale o.ty xs
    let n := mxBits o.ty
    let q := packLanes n (xs.map fun v => if sc = 255 then 0 else toLane n (quant o.ty sc v))
    s.land 8 [.v o.vd.toNat (BitVec.ofNat 512 (q + sc * 2 ^ 504))]
/-- vdqnt; past v1023 its destination run goes on with v0, as the sources of vqnt do (R319, R320; log entry 107). -/
def execVdqnt (o : VOp) (s : State) : Out :=
  s.guarded (.vdqnt o) fun s =>
    let u := o.srcTy
    let n := mxBits u
    let src := s.V o.va
    let sc := fld src 504 8
    let w := tyW o.ty
    let l := 512 / w
    let regs := if o.ty == 8 then 3 else 2
    let e (j : Nat) : Nat := if j < 36 then rne (laneFmt o.ty) (mxVal u (sInt n (fld src (n * j) n)) sc) else 0
    s.land 4 ((List.range regs).map fun r =>
      .v (o.vd + BitVec.ofNat 10 r).toNat (ofLanes w ((List.range l).map fun j => e (l * r + j))))

/-! ### Reductions (R321, R173, R174) -/

/-- Lane 0 receives the result, every other lane zero. -/
def State.vreduce (s : State) (o : VOp) (f : Nat → Nat → Nat) (empty : Nat) : State :=
  let ls := (List.range (laneCount o.ty)).map fun i =>
    if s.vmask o i && i < s.cnt o.vcnt then some (s.vA o i) else none
  let r := (treeRed f 6 ls).getD empty
  let canon := if tyFloat o.ty && (laneVal o.ty r).isNan then (laneFmt o.ty).nanCode else r
  s.land (vlat o.ty 4 8) [.v o.vd.toNat (BitVec.ofNat 512 canon)]
def execVredsum (o : VOp) (s : State) : Out :=
  s.guarded (.vredsum o) fun s => s.vreduce o (laneBin o.ty (fun x y => x + y) fun x y => vsum [x, y]) 0
def execVredmax (o : VOp) (s : State) : Out :=
  s.guarded (.vredmax o) fun s => s.vreduce o (laneMM true o.ty)
    (if tyFloat o.ty then (laneFmt o.ty).nanCode else toLane (tyW o.ty) (tyMin o.ty))
def execVredmin (o : VOp) (s : State) : Out :=
  s.guarded (.vredmin o) fun s => s.vreduce o (laneMM false o.ty)
    (if tyFloat o.ty then (laneFmt o.ty).nanCode else toLane (tyW o.ty) (tyMax o.ty))

/-! ### Lane moves (R322) -/

def execVperm (o : VOp) (s : State) : Out :=
  s.guarded (.vperm o) fun s => s.velem o 3 fun i =>
    s.vA o (lane (tyW o.ty) (s.V o.vb) i % 64 % laneCount o.ty)
def execVbcast (o : VOp) (s : State) : Out :=
  s.guarded (.vbcast o) fun s => s.velem o 2 fun _ => s.vA o o.vb.toNat
def execVbcastScalar (o : VOp) (s : State) : Out :=
  s.guarded (.vbcastScalar o) fun s => s.velem o 2 fun _ => fld (s.S (o.vb.setWidth 6)) 0 (tyW o.ty)
def execVlane (o : VOp) (s : State) : Out :=
  s.guarded (.vlane o) fun s => s.velem o 2 fun i => ((s.S (o.vb.setWidth 6)).toNat + i) % 2 ^ tyW o.ty
/-- vmovs: sign-extended for .i, zero-extended otherwise. -/
def execVmovs (o : VOp) (s : State) : Out :=
  s.guarded (.vmovs o) fun s =>
    let x := s.vA o o.vb.toNat
    s.land 2 [.s o.vd.toNat (BitVec.ofInt 64 (if o.ty < 4 then sInt (tyW o.ty) x else x))]
def execVmovl (o : VOp) (s : State) : Out :=
  s.guarded (.vmovl o) fun s =>
    let w := tyW o.ty
    let old := s.V o.vd
    s.land 2 [.v o.vd.toNat (ofLanes w ((List.range (laneCount o.ty)).map fun i =>
      if i = o.vb.toNat then fld (s.S (o.va.setWidth 6)) 0 w else lane w old i))]
def execVslide (o : VOp) (s : State) : Out :=
  s.guarded (.vslide o) fun s => s.velem o 3 fun i =>
    let l := laneCount o.ty
    let j := i + o.fn.toNat
    if j < l then s.vA o j else lane (tyW o.ty) (s.V o.vb) (j - l)
def execVzip (o : VOp) (s : State) : Out :=
  s.guarded (.vzip o) fun s => s.velem o 3 fun i =>
    let j := (if bitAt o.fn 0 then laneCount o.ty / 2 else 0) + i / 2
    lane (tyW o.ty) (s.V (if i % 2 = 0 then o.va else o.vb)) j
def execVunzip (o : VOp) (s : State) : Out :=
  s.guarded (.vunzip o) fun s => s.velem o 3 fun i =>
    let h := laneCount o.ty / 2
    let b := if bitAt o.fn 0 then 1 else 0
    if i < h then lane (tyW o.ty) (s.V o.va) (2 * i + b) else lane (tyW o.ty) (s.V o.vb) (2 * (i - h) + b)

/-! ### Approximations (R323, R324) -/

/-- Format that an approximation rounds into, and the bits below it in the lane. -/
def apxFmt (t : BitVec 4) : Fmt := if t = 8 then fmt32r12 else fmtB16
def apxShift (t : BitVec 4) : Nat := if t = 8 then 12 else 0
/-- A value of the approximation's format as a lane. -/
def apxEnc (t : BitVec 4) (v : Val) : Nat :=
  match v with
  | .nan => (laneFmt t).nanCode
  | v => rne (apxFmt t) v * 2 ^ apxShift t
/-- An irrational result from its enclosure: rounded where both ends agree, else one of the two, as a free value says (log entry 9). -/
def apxRound (fn : Nat) (t : BitVec 4) (x : Nat) (neg : Bool) (e : Encl) : Nat :=
  let a := apxEnc t (.num neg e.lo e.e)
  let b := apxEnc t (.num neg e.hi e.e)
  if a = b then a else if bitAt (Config.approxUndecided fn t.toNat (BitVec.ofNat 64 x)) 0 then a else b
def apxRcp (t : BitVec 4) (x : Nat) : Nat :=
  match laneVal t x with
  | .nan => apxEnc t .nan
  | .inf n => apxEnc t (.num n 0 0)
  | .num n m e =>
    if m = 0 then apxEnc t (.inf n)
    else let k := bitLen m + 64; apxEnc t (.num n (stickyDiv (2 ^ k) m) (-e - k - 1))
def apxRsqrt (t : BitVec 4) (x : Nat) : Nat :=
  match laneVal t x with
  | .nan => apxEnc t .nan
  | .inf n => apxEnc t (if n then .nan else .num false 0 0)
  | .num n m e =>
    if m = 0 then apxEnc t (.inf n)
    else if n then apxEnc t .nan
    else
      let m' := if e % 2 = 0 then m else 2 * m
      let h := if e % 2 = 0 then e / 2 else (e - 1) / 2
      let k := bitLen m' + 64
      let r := isqrt (2 ^ (2 * k) / m')
      apxEnc t (.num false (2 * r + (if r * r * m' = 2 ^ (2 * k) then 0 else 1)) (-h - k - 1))
def apxExp2 (t : BitVec 4) (x : Nat) : Nat :=
  match laneVal t x with
  | .nan => apxEnc t .nan
  | .inf n => apxEnc t (if n then .num false 0 0 else .inf false)
  | .num n m e =>
    if m = 0 then apxEnc t (.num false 1 0)
    else if !magLe m e 512 0 then apxEnc t (if n then .num false 0 0 else .inf false)
    else apxRound 2 t x false (exp2Encl n m e)
def apxLog2 (t : BitVec 4) (x : Nat) : Nat :=
  match laneVal t x with
  | .nan => apxEnc t .nan
  | .inf n => apxEnc t (if n then .nan else .inf false)
  | .num n m e =>
    if m = 0 then apxEnc t (.inf true)
    else if n then apxEnc t .nan
    else
      let k := bitLen m - 1
      if m = 2 ^ k then let z : Int := e + k; apxEnc t (.num (z < 0) z.natAbs 0)
      else let r := log2Encl m e; apxRound 3 t x r.1 r.2
def apxTanh (t : BitVec 4) (x : Nat) : Nat :=
  match laneVal t x with
  | .nan => apxEnc t .nan
  | .inf n => apxEnc t (.num n 1 0)
  | .num n m e => if m = 0 then apxEnc t (.num n 0 0) else apxRound 4 t x n (tanhEncl m e)

def execVrcp (o : VOp) (s : State) : Out :=
  s.guarded (.vrcp o) fun s => s.velem o 10 fun i => apxRcp o.ty (s.vA o i)
def execVrsqrt (o : VOp) (s : State) : Out :=
  s.guarded (.vrsqrt o) fun s => s.velem o 10 fun i => apxRsqrt o.ty (s.vA o i)
def execVexp2 (o : VOp) (s : State) : Out :=
  s.guarded (.vexp2 o) fun s => s.velem o 10 fun i => apxExp2 o.ty (s.vA o i)
def execVlog2 (o : VOp) (s : State) : Out :=
  s.guarded (.vlog2 o) fun s => s.velem o 10 fun i => apxLog2 o.ty (s.vA o i)
def execVtanh (o : VOp) (s : State) : Out :=
  s.guarded (.vtanh o) fun s => s.velem o 10 fun i => apxTanh o.ty (s.vA o i)

/-! ### Random numbers (R325) -/

def execVrng (o : VOp) (s : State) : Out :=
  s.guarded (.vrng o) fun s =>
    let key := s.S (o.va.setWidth 6)
    let ctr := s.S (o.vb.setWidth 6)
    s.velem o 8 fun i =>
      let z := rng64 key (ctr + BitVec.ofNat 64 i)
      if o.fn = 0 then fld z 0 (tyW o.ty)
      else if o.ty = 8 then rne fmt32 (.num false (fld z 40 24) (-24))
      else if o.ty = 9 then rne fmt64 (.num false (fld z 11 53) (-53))
      else rne fmtB16 (.num false (fld z 56 8) (-8))

end Sys2Proof.Machine
end

