-- ==== Sys2Proof/Machine/Engine.lean ====
section
/-! DEFINITION. The two matrix engines (chapters 07 and 15): operands, exact cells, faults of an engine, folds, bounds,
and how a result is sent on its way (R377 to R379, R153 to R165, R177, R180). -/

namespace Sys2Proof.Machine

/-! ### Operands (R378, R382) -/

/-- Element of a row of a format, as encoded. -/
def rowElem (f : BitVec 4) (row : BitVec 1152) (k : Nat) : Nat :=
  let n := if f = 8 then 32 else if f = 10 then 16 else mxBits f
  fld row (n * k) n
/-- Value of an encoded element under a scale byte. -/
def elemVal (f : BitVec 4) (sc x : Nat) : Val :=
  if f = 8 then valOf fmt32 x else if f = 10 then valOf fmtB16 x else mxVal f (sInt (mxBits f) x) sc
/-- Byte of the scale registers from k(K0) on (R367). -/
def Arch.scaleByte (a : Arch) (k0 g : Nat) : Nat := fld (a.rdK ((k0 + g / 16) % 16)) (8 * (g % 16)) 8
/-- Scale of block b of row r under a mode (R382); nb blocks in a row. -/
def Arch.scaleOf (a : Arch) (mode k0 nb r b : Nat) : Nat :=
  match mode with
  | 0 => a.scaleByte k0 (r * nb + b)
  | 1 => fld (a.rdK k0) (8 * b) 8
  | _ => 127
/-- Row r of an operand tile of K elements. -/
def Arch.operandRow (a : Arch) (t : Nat) (f : BitVec 4) (k mode k0 r : Nat) : List Val :=
  let row := a.row t r
  (List.range k).map fun i =>
    elemVal f (if tyMx f then a.scaleOf mode k0 (k / 36) r (i / 36) else 0) (rowElem f row i)

/-- Kept elements of one group put back at their indices (R374): a later element stands, an index of 12 or more discards. -/
def expandGroup (el : Nat → Nat) (ix : Nat → Nat) (n : Nat) : List (Option Nat) :=
  (List.range 12).map fun j => ((List.range n).filter fun r => ix r = j).getLast?.map el
/-- A compressed row expanded: none where the metadata leaves a position out. -/
def expandRow (f : BitVec 4) (n groups : Nat) (row mrow : BitVec 1152) : List (Option Nat) :=
  (List.range groups).flatMap fun g =>
    expandGroup (fun r => rowElem f row (g * n + r)) (fun r => fld mrow (4 * (g * n + r)) 4) n

/-! ### Exact results (R153, R154) -/

/-- One engine operation: destination, precision, rows written, the exact value of a cell from the old cells of a copy,
and the bound before its rounding term. -/
structure EngOp where
  d : Nat
  prec : Bool
  c : Nat
  exact : (Nat → Nat → Nat → Val) → Nat → Nat → Val
  t : BitVec 32

/-- Result of one engine, or of the exact computation: cells by 32 i + j, and the inexact flag. -/
structure EngRes where
  cells : List (Nat × Word)
  inexact : Bool

/-- Stuck digits of an engine on a cell it writes (`Core.stuck`); a cell of 32 bits has no others (R155, R177). -/
def applyStuck (l : List Stuck) (shadow wide : Bool) (i j : Nat) (w : Word) : Word :=
  l.foldl (fun w f =>
    if f.shadow = shadow && f.row = i && f.col = j && (wide || f.bit < 32) then putFld w f.bit 1 (if f.one then 1 else 0) else w) w
/-- Cells an operation writes from one copy: rows below c by the operation, the others converted when the precision
changes (R383). -/
def engRun (f : AccFile) (old : Nat → Nat → Nat → Word) (o : EngOp) (fix : Nat → Nat → Word → Word) : EngRes :=
  let fm := if o.prec then fmt64 else fmt32
  let val (n i j : Nat) := cellVal (f.precOf n) (old n i j)
  let conv := f.precOf o.d != o.prec
  let rows := if conv then 32 else o.c
  let vs := (List.range (32 * rows)).map fun q =>
    let i := q / 32
    let j := q % 32
    (q, if i < o.c then o.exact val i j else val o.d i j)
  ⟨vs.map fun v => (v.1, fix (v.1 / 32) (v.1 % 32) (BitVec.ofNat 64 (rne fm v.2))), vs.any fun v => inexact fm v.2⟩
/-- Values of a whole accumulator with some cells written. -/
def accVals (f : AccFile) (n : Nat) (prec : Bool) (cells : List (Nat × Word)) : List Val :=
  (cells.map fun c => cellVal prec c.2) ++
    (if cells.length = 1024 then [] else
      ((List.range 1024).filter fun q => !cells.any fun c => c.1 = q).map fun q =>
        cellVal (f.precOf n) (f.cellP n (q / 32) (q % 32)))
/-- Bound of a result (R159, R165). -/
def engBound (f : AccFile) (o : EngOp) (cells : List (Nat × Word)) (inx : Bool) : BitVec 32 :=
  let vs := accVals f o.d o.prec cells
  if vs.any fun v => !v.finite then bInf
  else badd o.t (up32 (rho (if o.prec then fmt64 else fmt32) vs inx))

/-- Rows in which two engines' row signatures differ (R180). -/
def diffRows (p q : List (Nat × Word)) : List Nat :=
  (List.range 32).filter fun i =>
    foldCells (p.filter fun c => c.1 / 32 = i) != foldCells (q.filter fun c => c.1 / 32 = i)

/-! ### Sending an engine result (R379, R180) -/

/-- Matrix latency: the class's own (R309 style pair). -/
def Ctx.mlat (x : Ctx) (p g : Nat) : Nat := if x.classG then g else p
/-- A figure of the core's own kind. -/
def kindOf (n : CoreN) (p g : Nat) : Nat := if isG n then g else p
/-- Core cycle at which a result of the matrix engine arrives that is accepted in this one (R198). -/
def State.engReady (s : State) (p g : Nat) : Nat := (s.core s.foc.core).cyc.toNat + kindOf s.foc.core p g
/-- Results of an M-slot operation: due at the latency of the class, computed at that of the core's kind (R379). -/
def State.landM (s : State) (p g : Nat) (ws : List Write) : State :=
  s.setCx (s.cx.sendM s.foc.slot (s.cx.mlat p g) (s.engReady p g) ws)
/-- Occupancy by the core's kind (R201). -/
def State.occupy (s : State) (p g : Nat) : State :=
  let n := s.foc.core
  let k := s.core n
  s.setCore n { k with engFree := k.cyc.toNat + kindOf n p g }
/-- Marks of the interval: accumulators and bounds written, written at A32, and under escalation (R167, R169, R179). -/
def Ctx.markAcc (x : Ctx) (d : Nat) (a32 : Bool) : Ctx :=
  let b : BitVec 4 := 1 <<< d
  { x with
    wrAcc := x.wrAcc ||| b
    wrBnd := x.wrBnd ||| b
    wr32 := if a32 then x.wr32 ||| b else x.wr32
    esc := if a32 && bitAt x.a.besc 0 then x.esc ||| b else x.esc &&& ~~~b
    escSeqs := if a32 && bitAt x.a.besc 0 then x.seq :: x.escSeqs else x.escSeqs }
/-- A request joins the arbiter's queue: in the order they arrive, those of one core cycle in ascending COREID order (R181). -/
def arbPut (r : Nat × Nat × Nat) : List (Nat × Nat × Nat) → List (Nat × Nat × Nat)
  | [] => [r]
  | q :: t => if q.1 = r.1 && r.2.1 < q.2.1 then r :: q :: t else q :: arbPut r t
/-- Both engines run an operation and its results are sent, landing together. During step-compare the first difference
becomes the dispute for the arbiter (R180). -/
def State.engineOp (s : State) (o : EngOp) (pr : Bool) (lp lg : Nat) : State :=
  if o.c = 0 then s else
  let x := s.cx
  let n := s.foc.core
  let f := x.a.ev
  let st := (s.core n).stuck
  let p := engRun f f.cellP o (applyStuck st false o.prec)
  let q := engRun f f.cellS o (applyStuck st true o.prec)
  let ba := engBound f o p.cells p.inexact
  let w := Write.acc o.d ((p.cells.zip q.cells).map fun c => (c.1.1, c.1.2, c.2.2)) (some o.prec) (some ba)
    (foldCells p.cells) (foldCells q.cells)
  let x' := (x.sendM s.foc.slot (x.mlat lp lg) (s.engReady lp lg) [w]).markAcc o.d (!pr)
  let rows := diffRows p.cells q.cells
  if x.stepCmp && x.dispute.isNone && !rows.isEmpty then
    let ex := engRun f f.cellP o fun _ _ w => w
    let good := (p.cells.zip ex.cells).map fun c => if rows.contains (c.1.1 / 32) then c.2 else c.1
    let k := clusterOf n
    (s.setCx { x' with dispute := some ⟨o.d, rows, good, p.cells, q.cells, engBound f o good ex.inexact, x.seq, x.a.pc⟩ }).setCluster
      k { s.cluster k with arb := arbPut ((s.core n).cyc.toNat, n.toNat, s.foc.ctx.toNat) (s.cluster k).arb }
  else s.setCx x'

/-- Precision an operation writes: A64, or A32 under escalation (R383). -/
def Ctx.precFor (x : Ctx) (pr : Bool) : Bool := pr || bitAt x.a.besc 0
/-- Rows under a valid count. -/
def State.rowsCnt (s : State) (c : Option Reg) (rows : Nat) : Nat := min rows (s.cnt c)

/-- Sum of magnitudes of a list, as a bound operand. -/
def absSum (l : List Val) : Val := vsum (l.map Val.abs)
/-- Largest of several sums: rowabs and colabs of R151. A sum with a NaN in it, as a source of `mmas` may hold at a position that its metadata
leaves out, makes +infinity (log entry 98). -/
def maxAbs (l : List (List Val)) : BitVec 32 :=
  l.foldl (fun m r =>
    match absSum r with
    | .num _ a e => let v := up32 (.num false a e); if v.toNat < m.toNat then m else v
    | _ => bInf) 0

/-! ### Bound test (R167) -/

/-- Whether an accumulator passes the test. -/
def bndPass (f : AccFile) (n : Nat) (bthr : Word) : Bool :=
  let vs := accVals f n (f.precOf n) []
  let b := f.baOf n
  let floor := sInt 8 (fld bthr 16 8)
  let m := maxMag vs
  if !bitAt bthr 25 then true
  else if b = bInf then bitAt bthr 24 && vs.any fun v => !v.finite
  else
    !(Val.lt (.num false m.1 (m.2 + sInt 8 (fld bthr 0 8))) (bval b)
      && (floor = -128 || Val.lt (.num false 1 floor) (bval b))) || b = 0

end Sys2Proof.Machine
end

