-- ==== Sys2Proof/Machine/Matrix.lean ====
section
/-! DEFINITION. Slot M: multiply-accumulate, accumulator addition and scaling, known-answer tiles (chapter 15), and the
tile conversions, quantization, compression and moves (chapter 14). -/

namespace Sys2Proof.Machine

/-- d of R381. -/
def mmaD (fa fb : BitVec 4) : Nat :=
  if fa = 12 && fb = 12 then 9 else if fa = 12 || fb = 12 then 6 else 8
/-- A product of two operand elements (R152: with an MX operand of 0 it is +0). -/
def opMul (f : BitVec 4) (x y : Val) : Val := if tyMx f then mxMul x y else vmul x y
/-- β terms of R160 before ρ. -/
def mmaBound (ba bA bB : BitVec 32) (k : Nat) (rowabs colabs : BitVec 32) : BitVec 32 :=
  let t := badd ba (bmul bA colabs)
  let t := badd t (bmul bB rowabs)
  badd t (bmul (bmul (up32 (.num false k 0)) bA) bB)

/-- R383, R384: the MMA with the second operand given column by column, none where nothing is multiplied. -/
def State.mmaWith (s : State) (o : MOp) (cols : List (List (Option Val))) (k d : Nat) : State :=
  let x := s.cx
  let a := x.a
  let c := s.rowsCnt o.vcnt 32
  let rows := (List.range 32).map fun i => a.operandRow o.ta.toNat o.fa k (fld o.fn 0 2) o.ka.toNat i
  let t := mmaBound (a.ev.baOf o.d.toNat) (a.bound o.ta.toNat) (a.bound o.tb.toNat) k (maxAbs (rows.take c))
    (maxAbs (cols.map fun l => l.filterMap id))
  let term (p : Val × Option Val) : Option Val := p.2.map (opMul o.fa p.1)
  (s.occupy d (2 * d)).engineOp
    ⟨o.d.toNat, x.precFor o.pr, c,
      fun old i j => vsum (old o.d.toNat i j :: ((rows.getD i []).zip (cols.getD j [])).filterMap term), t⟩
    o.pr (d + 8) (2 * d + 8)

def execMma (o : MOp) (s : State) : Out :=
  s.guarded (.mma o) fun s =>
    let k := mmaK o.fa o.fb
    s.mmaWith o ((List.range 32).map fun j =>
      (s.cx.a.operandRow o.tb.toNat o.fb k (fld o.fn 2 2) o.kb.toNat j).map some) k (mmaD o.fa o.fb)
/-- mmas: positions that the metadata leaves out do not add (R153; log entry 14). -/
def execMmas (o : MOp) (s : State) : Out :=
  s.guarded (.mmas o) fun s =>
    let a := s.cx.a
    let k := mmaK o.fa o.fb
    let n := keepN (fld o.fn 4 2)
    let d := mmaD o.fa o.fb
    let col (j : Nat) := (expandRow o.fb n (k / 12) (a.row o.tb.toNat j) (a.row o.meta3.toNat j)).zipIdx.map fun e =>
      e.1.map (elemVal o.fb (if tyMx o.fb then a.scaleOf (fld o.fn 2 2) o.kb.toNat (k / 36) j (e.2 / 36) else 0))
    s.mmaWith o ((List.range 32).map col) k ((d * n + 11) / 12)

/-! ### Accumulator addition and scaling (R385, R161) -/

def execTadd (o : MOp) (s : State) : Out :=
  s.guarded (.tadd o) fun s =>
    let x := s.cx
    let f := x.a.ev
    let p := o.ta.toNat
    let q := o.tb.toNat
    (s.occupy 2 4).engineOp
      ⟨o.d.toNat, x.precFor o.pr, s.rowsCnt o.vcnt 32, fun old i j => vsum [old p i j, old q i j],
        badd (f.baOf p) (f.baOf q)⟩ o.pr 8 10
def execTscl (o : MOp) (s : State) : Out :=
  s.guarded (.tscl o) fun s =>
    let x := s.cx
    let p := o.ta.toNat
    let c := valOf fmt32 (fld (s.S (o.aux.setWidth 6)) 0 32)
    (s.occupy 2 4).engineOp
      ⟨o.d.toNat, x.precFor o.pr, s.rowsCnt o.vcnt 32, fun old i j => vmul (old p i j) c,
        bmul (x.a.ev.baOf p) (up32 c)⟩ o.pr 8 10

/-! ### Known-answer tiles (R186, R389) -/

/-- The cells of a known-answer MMA: exact in binary32. -/
def katCells (f : BitVec 4) (seed : Word) : List (Nat × Word) :=
  let n := mxBits f
  let k := mmaK f f
  let e (base i j : Nat) : Int := sInt n (fld (rng64 seed (BitVec.ofNat 64 (base + 1024 * i + j))) 0 n)
  let a := (List.range 32).map fun i => (List.range k).map (e 0 i)
  let b := (List.range 32).map fun j => (List.range k).map (e (2 ^ 20) j)
  (List.range 1024).map fun q =>
    let z : Int := (((a.getD (q / 32) []).zip (b.getD (q % 32) [])).map fun p => p.1 * p.2).sum
    (q, BitVec.ofNat 64 (rne fmt32 (.num (z < 0) z.natAbs (-2 * mxF f))))
/-- mkat: the outcome of R187 comes eight core cycles after the occupancy. -/
def execMkat (fmt : BitVec 4) (seed : Reg) (sig : Word) (s : State) : Out :=
  s.guarded (.mkat fmt seed sig) fun s =>
    let d := mmaD fmt fmt
    let s := s.occupy d (2 * d)
    let n := s.foc.core
    let k := s.core n
    let cells := katCells fmt (s.S seed)
    let run (sh : Bool) := foldCells (cells.map fun c => (c.1, applyStuck k.stuck sh false (c.1 / 32) (c.1 % 32) c.2))
    s.setCore n { k with kats := k.kats ++ [⟨s.foc.ctx.toNat, k.engFree + 8, run false, run true, sig, s.cx.a.pc⟩] }

/-! ### Conversions and moves (R370 to R374) -/

/-- A whole row of a tile written. -/
def rowW (i len v : Nat) : RowW := ⟨i, 0, 8 * len, v⟩
/-- The larger of two bounds. -/
def bmax (a b : BitVec 32) : BitVec 32 := if a.toNat < b.toNat then b else a

/-- tcvt: rows below the count, rounded once from the cells in engine order (R371, R377). -/
def execTcvt (o : MOp) (s : State) : Out :=
  s.guarded (.tcvt o) fun s =>
    let a := s.cx.a
    let s := s.occupy 4 8
    let t := o.ta.toNat
    let d := o.d.toNat
    let sh := a.shapeOf t
    let c := s.rowsCnt o.vcnt sh.rows
    let fm := if o.fa = 8 then fmt32 else fmtB16
    let we := if o.fa = 8 then 4 else 2
    let vals := (List.range c).map fun i => (List.range (sh.rlen / we)).map fun j =>
      cellVal (a.ev.precOf d) (a.ev.cellP d i j)
    let out := vals.map fun r => r.map (rne fm)
    let all := vals.flatten
    let written := out.flatten.map (valOf fm)
    let b0 := badd (a.ev.baOf d) (up32 (rho fm written (all.any (inexact fm))))
    let b1 := if c = sh.rows then b0 else bmax (a.bound t) b0
    let b := if written.any fun v => !v.finite then bInf else b1
    if c = 0 then s else
    s.landM 8 12 [.tile t (out.zipIdx.map fun r => rowW r.2 sh.rlen (packLanes (8 * we) r.1)) (some b) (some .none)]

/-- Blocks of a tile row. -/
def blocksIn (f : BitVec 4) (rlen : Nat) : Nat := if f = 8 then rlen / 144 else if f = 10 then rlen / 72 else rlen * 8 / (36 * mxBits f)
/-- |x - value(q)| of R163. -/
def quantErr (t : BitVec 4) (sc : Nat) (v : Val) : Val := (vsum [v, (mxVal t (quant t sc v) sc).neg]).abs
/-- The larger of two finite magnitudes. -/
def vmaxMag (a b : Val) : Val := if a.lt b then b else a
/-- h of R163 for one block. -/
def blockH (t : BitVec 4) (sc : Nat) (xs : List Val) : Val :=
  let errs := xs.map (quantErr t sc)
  if sc = 255 || errs.all fun v => v.eqv (.num false 0 0) then .num false 0 0
  else errs.foldl vmaxMag (.num false 1 ((sc : Int) - 128 - mxF t))
def execTqnt (o : MOp) (s : State) : Out :=
  s.guarded (.tqnt o) fun s =>
    let a := s.cx.a
    let s := s.occupy 8 16
    let t := o.ta.toNat
    let b := o.tb.toNat
    let sa := a.shapeOf t
    let nbA := blocksIn o.fa sa.rlen
    let nbB := blocksIn o.fb (a.shapeOf b).rlen
    let blks := (List.range (sa.rows * nbA)).map fun g =>
      let row := a.row b (g / nbB)
      let xs := (List.range 36).map fun e => elemVal o.fb 0 (rowElem o.fb row (36 * (g % nbB) + e))
      (qscale o.fa xs, xs)
    let n := mxBits o.fa
    -- R163 states no element for a NaN or an infinity (log entry 7)
    let el (g : Nat) (p : Nat × List Val) : List Nat := p.2.zipIdx.map fun v =>
      if v.1.finite then toLane n (quant o.fa p.1 v.1) else (Config.freeWord (s.freeCtr + 36 * g + v.2)).toNat % 2 ^ n
    let row (i : Nat) : List Nat := (((blks.zipIdx).drop (i * nbA)).take nbA).flatMap fun p => el p.2 p.1
    let scs := blks.map Prod.fst
    let s := if scs.contains 255 then { s with freeCtr := s.freeCtr + 36 * blks.length } else s
    let h := (blks.map fun p => blockH o.fa p.1 p.2).foldl vmaxMag (.num false 0 0)
    let bt := if scs.contains 255 then bInf else badd (a.bound b) (up32 h)
    let ks := (List.range ((scs.length + 15) / 16)).map fun q =>
      let l := (scs.drop (16 * q)).take 16
      Write.k ((o.ka.toNat + q) % 16) (BitVec.ofNat 16 (2 ^ l.length - 1)) (BitVec.ofNat 128 (packLanes 8 l))
    s.landM 14 22
      (.tile t ((List.range sa.rows).map fun i => rowW i sa.rlen (packLanes n (row i))) (some bt) (some .none) :: ks)

/-- Rank class of an element (R156): 0 NaN, 1 infinity, 2 finite; and its magnitude. -/
def rankKey (f : BitVec 4) (nanBlk : Bool) (x : Nat) : Nat × Nat :=
  if tyMx f then (if nanBlk then 0 else 2, (sInt (mxBits f) x).natAbs)
  else
    let fm := if f = 8 then fmt32 else fmtB16
    match valOf fm x with
    | .nan => (0, 0)
    | .inf _ => (1, 0)
    | _ => (2, x % fm.signBit)
/-- Whether element i of a group ranks before element j. -/
def ranksBefore (ks : List (Nat × Nat)) (i j : Nat) : Bool :=
  let a := ks.getD i (0, 0)
  let b := ks.getD j (0, 0)
  a.1 < b.1 || (a.1 == b.1 && ((a.1 == 2 && b.2 < a.2) || ((a.1 != 2 || a.2 == b.2) && i < j)))
/-- Indices kept of a group of 12, ascending. -/
def keptIdx (ks : List (Nat × Nat)) (n : Nat) : List Nat :=
  (List.range 12).filter fun i => ((List.range 12).filter fun j => ranksBefore ks j i).length < n
def execTcmpr (o : MOp) (s : State) : Out :=
  s.guarded (.tcmpr o) fun s =>
    let a := s.cx.a
    let s := s.occupy 4 8
    let t := o.ta.toNat
    let b := o.tb.toNat
    let m := o.meta3.toNat
    let sb := a.shapeOf b
    let n := keepN o.fn.toNat
    let bits := if o.fa = 8 then 32 else if o.fa = 10 then 16 else mxBits o.fa
    let k := sb.rlen * 8 / bits
    let kept (i g : Nat) : List Nat :=
      keptIdx ((List.range 12).map fun e =>
        rankKey o.fa (tyMx o.fa && a.scaleByte o.ka.toNat (i * (k / 36) + (12 * g + e) / 36) = 255)
          (rowElem o.fa (a.row b i) (12 * g + e))) n
    let rows := (List.range sb.rows).map fun i => (List.range (k / 12)).map fun g => (g, kept i g)
    let data := rows.zipIdx.map fun r => rowW r.2 (a.shapeOf t).rlen (packLanes bits
      (r.1.flatMap fun gk => gk.2.map fun e => rowElem o.fa (a.row b r.2) (12 * gk.1 + e)))
    let idx := rows.zipIdx.map fun r => rowW r.2 (a.shapeOf m).rlen (packLanes 4 (r.1.flatMap fun gk => gk.2))
    s.landM 8 12 [.tile t data (some (a.bound b)) (some .none), .tile m idx (some 0) (some .none)]
def execTdcmp (o : MOp) (s : State) : Out :=
  s.guarded (.tdcmp o) fun s =>
    let a := s.cx.a
    let s := s.occupy 4 8
    let t := o.ta.toNat
    let b := o.tb.toNat
    let sa := a.shapeOf t
    let bits := if o.fa = 8 then 32 else if o.fa = 10 then 16 else mxBits o.fa
    let k := sa.rlen * 8 / bits
    let row (i : Nat) := expandRow o.fa (keepN o.fn.toNat) (k / 12) (a.row b i) (a.row o.meta3.toNat i)
    s.landM 8 12 [.tile t ((List.range sa.rows).map fun i =>
      rowW i sa.rlen (packLanes bits ((row i).map fun e => e.getD 0))) (some (a.bound b)) (some .none)]
def execTmov (o : MOp) (s : State) : Out :=
  s.guarded (.tmov o) fun s =>
    let a := s.cx.a
    let s := s.occupy 2 4
    let t := o.ta.toNat
    let b := o.tb.toNat
    if t = b then s else
    s.landM 4 6 [.tile t ((List.range (a.shapeOf b).rows).map fun i =>
      rowW i (a.shapeOf b).rlen (a.row b i).toNat) (some (a.bound b)) (some (mget .none a.origin b))]

end Sys2Proof.Machine
end

