-- ==== Sys2Proof/Machine/MemIssue.lean ====
section
/-! DEFINITION. The memory-queue operations at their issue (chapter 13, R299 to R303): addresses, checks, and the entry each
one places in a queue or in the pound (R329). -/

namespace Sys2Proof.Machine

/-! ### Effective addresses (R326) -/

/-- [sB + sX + disp]. -/
def State.ea (s : State) (o : LOp) : Word := s.S o.b + (s.S o.x + o.disp)
/-- [sB + disp]. -/
def State.eaB (s : State) (o : LOp) : Word := s.S o.b + o.disp
/-- One run of bytes from the base of the operand. -/
def State.run1 (s : State) (o : LOp) (ea : Word) (len off : Nat) : Run1 := ⟨s.S o.b, ea, len, off⟩

def needR : Need := ⟨true, false, false⟩
def needW : Need := ⟨false, true, false⟩
def needRW : Need := ⟨true, true, false⟩

/-- The access passes the issue-time address checks, then the further checks `bad` (a subcause), and goes on with its
pieces; else it raises a permission fault (R400 stage 6). -/
def State.access (s : State) (need : Need) (rs : List Run1) (ea : Word) (bad : List Piece → Option Nat)
    (k : List Piece → State) : State :=
  match issueTr s.cx s.foc.core need rs with
  | .bad sub ptr pa => s.permIssue sub need.acc ptr pa
  | .ok ps =>
    match bad ps with
    | some sub => s.permIssue sub need.acc ea ((firstPa ps).getD 0)
    | none => k ps
/-- Subcause decode when a test fails. -/
def decodeIf (b : Bool) : Option Nat := if b then some 2 else none
/-- The first piece in control space, where a load of bytes is refused (R20). -/
def ctlPiece (ps : List Piece) : Option Piece :=
  ps.find? fun p => match p.tr with | some t => regionOf t.pa == .ctl | none => false
/-- A piece in control space. -/
def inCtl (ps : List Piece) : Bool := anyIn ps (· == .ctl)
/-- Acquire or release of a word: its scope. -/
def acqOf (o : LOp) : Option (BitVec 3) := if bitAt o.ord 0 then some o.scope else none
def relOf (o : LOp) : Option (BitVec 3) := if bitAt o.ord 1 then some o.scope else none

/-- A load entry: its result waits for the data. -/
def State.sendLoad (s : State) (kind : EKind) (lat : Nat) (keep : Bool) (ps : List Piece) (acq : Option (BitVec 3)) : State :=
  (s.await lat keep false).toLq (s.mkEntry kind ps [] acq none)

/-! ### Scalar loads and stores (R330, R334) -/

/-- Latency of ldfar and vldfar. -/
def farLat (fn : BitVec 4) : Nat :=
  match fn.toNat with
  | 0 => 32 | 1 => 48 | 2 => 64 | 3 => 96 | 4 => 128 | 5 => 192 | 6 => 256 | _ => 384
/-- Control space takes ld and st of 8-byte types at aligned addresses only (R20, R326). -/
def ldstBad (ea : Word) (w : Nat) (ps : List Piece) : Bool := inCtl ps && (w ≠ 8 || ea.toNat % 8 ≠ 0)
/-- ld and ldfar. -/
def State.ldOp (s : State) (o : LOp) (lat : Nat) : State :=
  let w := laneBytes o.ty
  let ea := s.ea o
  s.access needR [s.run1 o ea w 0] ea (fun ps => decodeIf (ldstBad ea w ps)) fun ps =>
    s.sendLoad (.ld o.d.toNat w (o.ty < 4)) lat (o.d ≠ 0) ps (acqOf o)
/-- ld: due 12 cycles later; an acquire load with .acq. -/
def execLd (o : LOp) (s : State) : Out := s.guarded (.ld o) fun s => s.ldOp o 12
def execLdfar (o : LOp) (s : State) : Out := s.guarded (.ldfar o) fun s => s.ldOp o (farLat o.fn)
/-- st: into the pound; a release store is irrevocable and goes to the store queue (R104, R329). -/
def execSt (o : LOp) (s : State) : Out :=
  s.guarded (.st o) fun s =>
    let w := laneBytes o.ty
    let ea := s.ea o
    s.access needW [s.run1 o ea w 0] ea (fun ps => decodeIf (ldstBad ea w ps)) fun ps =>
      let e := s.mkEntry .st ps (leBytes w (s.S (o.d.setWidth 6)).toNat) none (relOf o)
      if o.ord = 0 then s.toPound e else s.toSq e

/-! ### Vector loads and stores (R331, R332) -/

/-- Active lanes of a word: mask and valid count. -/
def State.lanesOn (s : State) (o : LOp) : List Nat :=
  (List.range (laneCount o.ty)).filter fun i =>
    (!o.mu || bitAt (s.cx.a.rdM o.mreg.toNat) i) && i < s.cnt o.vcnt
/-- The runs of a vector access whose lane i is at `f i`. -/
def State.laneRuns (s : State) (o : LOp) (act : List Nat) (f : Nat → Word) : List Run1 :=
  let b := laneBytes o.ty
  act.map fun i => s.run1 o (f i) b (b * i)
/-- Active lanes that follow one another: the first of each group and how many there are. -/
def laneGroups (act : List Nat) : List (Nat × Nat) :=
  act.foldr (fun i l => match l with
    | (j, k) :: t => if j = i + 1 then (i, k + 1) :: t else (i, 1) :: l
    | [] => [(i, 1)]) []
/-- Contiguous lanes: the bytes of active lanes that follow one another form one run. -/
def State.contRuns (s : State) (o : LOp) (act : List Nat) : List Run1 :=
  let b := laneBytes o.ty
  (laneGroups act).map fun g => s.run1 o (s.ea o + BitVec.ofNat 64 (b * g.1)) (b * g.2) (b * g.1)
/-- Strided and indexed addresses. -/
def State.strideAt (s : State) (o : LOp) (i : Nat) : Word := s.eaB o + BitVec.ofNat 64 i * s.S o.x
def State.indexAt (s : State) (o : LOp) (i : Nat) : Word :=
  s.eaB o + BitVec.ofInt 64 (laneInt o.ty (lane (tyW o.ty) (s.V (o.d + 1)) i) * laneBytes o.ty)
/-- Mask of the active lanes. -/
def laneMask (act : List Nat) : BitVec 64 := act.foldl (fun m i => m ||| ((1 : BitVec 64) <<< i)) 0
/-- A vector load; with no active lane every lane keeps its value. -/
def State.vldOp (s : State) (o : LOp) (lat : Nat) (rs : List Nat → List Run1) : State :=
  let act := s.lanesOn o
  let old := s.V o.d
  let runs := rs act
  if act.isEmpty then s.land lat [.v o.d.toNat old]
  else
    let ea := ((runs.head?).map (·.ea)).getD 0
    s.access needR runs ea (fun ps => decodeIf (inCtl ps)) fun ps =>
      s.sendLoad (.vld o.d.toNat (laneBytes o.ty) (laneMask act) old) lat true ps none
/-- A vector store; with no active lane it places nothing. -/
def State.vstOp (s : State) (o : LOp) (rs : List Nat → List Run1) : State :=
  let act := s.lanesOn o
  let runs := rs act
  if act.isEmpty then s
  else
    let ea := ((runs.head?).map (·.ea)).getD 0
    s.access needW runs ea (fun ps => decodeIf (inCtl ps)) fun ps =>
      s.toPound (s.mkEntry .st ps (leBytes 64 (s.V o.d).toNat) none none)

def execVld (o : LOp) (s : State) : Out := s.guarded (.vld o) fun s => s.vldOp o 12 (s.contRuns o)
def execVldfar (o : LOp) (s : State) : Out := s.guarded (.vldfar o) fun s => s.vldOp o (farLat o.fn) (s.contRuns o)
def execVst (o : LOp) (s : State) : Out := s.guarded (.vst o) fun s => s.vstOp o (s.contRuns o)
def execVlds (o : LOp) (s : State) : Out :=
  s.guarded (.vlds o) fun s => s.vldOp o 16 fun act => s.laneRuns o act (s.strideAt o)
def execVsts (o : LOp) (s : State) : Out :=
  s.guarded (.vsts o) fun s => s.vstOp o fun act => s.laneRuns o act (s.strideAt o)
def execVgath (o : LOp) (s : State) : Out :=
  s.guarded (.vgath o) fun s => s.vldOp o 24 fun act => s.laneRuns o act (s.indexAt o)
def execVscat (o : LOp) (s : State) : Out :=
  s.guarded (.vscat o) fun s => s.vstOp o fun act => s.laneRuns o act (s.indexAt o)

/-! ### Ordering marks (R335) -/

/-- An ordering mark in both queues. -/
def State.mark (s : State) (m : Mark) : State := s.setCx { s.cx with marks := s.cx.marks ++ [m] }
def execQmark (o : LOp) (s : State) : Out :=
  s.guarded (.qmark o) fun s => s.mark ⟨s.cx.seq, true, false, false, 0⟩
def execFence (o : LOp) (s : State) : Out :=
  s.guarded (.fence o) fun s => s.mark ⟨s.cx.seq, false, bitAt o.ord 0, bitAt o.ord 1, o.scope⟩

/-! ### Atomics (R336 to R338) -/

/-- Whether the unit behind a physical address performs an operation on a type (R337). -/
def atomListed (r : Region) (fn ty : BitVec 4) : Bool :=
  let int := ty == 2 || ty == 3 || ty == 6 || ty == 7
  match r with
  | .spad => (fn ≤ 7 && int) || (fn == 8 && ty == 8)
  | .hbm | .llc => (fn ≤ 7 && int) || (fn == 8 && (ty == 8 || ty == 9))
  | .host => fn ≤ 2 && int
  | _ => false
/-- Region that decides for an address: of a peer module, that of the offset there. -/
def atomRegion (pa : Nat) : Region := if regionOf pa = .peer then regionOf (pa % 0x40000000000) else regionOf pa
/-- What an atomic meets once its address is known: decode, unsupported, or nothing. -/
def atomMeets (pa : Nat) (fn ty : BitVec 4) : Option Bool :=
  match atomRegion pa with
  | .ctl | .peer | .reserved => some false
  | r => if atomListed r fn ty then none else some true
/-- The trap *atomic unsupported* (R338): slots A to L count as issued. -/
def State.atomUnsup (s : State) (n : CoreN) (c : CtxN) (pc : Word) (k : Nat) (ea : Word) : State :=
  s.takeLocal n c ⟨8, 0, 1, ea, pc, 5, k, 0x3F⟩
/-- atom. -/
def execAtom (o : LOp) (s : State) : Out :=
  s.guarded (.atom o) fun s =>
    let w := laneBytes o.ty
    let ea := s.eaB o
    s.access needRW [s.run1 o ea w 0] ea
      (fun ps => decodeIf (ea.toNat % w ≠ 0 || ((firstPa ps).bind fun pa => atomMeets pa o.fn o.ty) = some false))
      fun ps =>
        if ((firstPa ps).bind fun pa => atomMeets pa o.fn o.ty) = some true then
          { s.atomUnsup s.foc.core s.foc.ctx s.cx.a.pc s.cx.a.rep.toNat ea with foc := { s.foc with trapped := true } }
        else
          let e := s.mkEntry (.atom o.fn o.ty o.d.toNat (s.S o.x) (s.S (o.d.setWidth 6)) 0) ps [] (acqOf o) (relOf o)
          (s.await 24 (o.d ≠ 0) true).toSq e

/-! ### Barriers (R339 to R342) -/

/-- A barrier object's address, reached through an extent with CTL (R341). -/
def isBarrier (pa : Nat) : Bool :=
  ctlBase ≤ pa && pa < ctlBase + 0x80000000
    && (let o := (pa - ctlBase) % 0x10000000; 0x6000000 ≤ o && o < 0x6080000) && pa % 8 = 0
/-- A translation known and passing a test; a miss fails it. -/
def knownAll (ps : List Piece) (f : Nat → Bool) : Bool := ps.all fun p => match p.tr with | some t => f t.pa | none => false
/-- arrive: an irrevocable release at the barrier's scope, sent by the store queue. -/
def execArrive (o : LOp) (s : State) : Out :=
  s.guarded (.arrive o) fun s =>
    let ea := s.eaB o
    s.access needW [s.run1 o ea 8 0] ea (fun ps => decodeIf (!knownAll ps isBarrier || ps.length ≠ 1)) fun ps =>
      s.toSq (s.mkEntry .arrive ps [] none (some 3))
/-- waitp: an acquire load of the phase; the next bundle waits for it. -/
def execWaitp (o : LOp) (s : State) : Out :=
  s.guarded (.waitp o) fun s =>
    let ea := s.eaB o
    s.access needR [s.run1 o ea 8 0] ea (fun ps => decodeIf (!knownAll ps isBarrier || ps.length ≠ 1)) fun ps =>
      let cyc := if s.cx.inBody then 0 else fld (s.csrSeen s.foc.core s.foc.ctx 0x23) 0 32
      s.toLq (s.mkEntry (.waitp (bitAt (s.S (o.d.setWidth 6)) 0) (s.core s.foc.core).cyc.toNat false cyc) ps [] (some 3) none)

/-! ### Berth sends and ownership transfer (R343, R344) -/

/-- Whether known pieces lie in one core's scratchpad window, consecutively. -/
def oneWindow (ea : Word) (ps : List Piece) : Bool :=
  match firstPa ps with
  | none => true
  | some pa0 =>
    ps.all fun p => match p.tr with
      | some t => regionOf t.pa == .spad && spadCore t.pa == spadCore pa0 && t.pa == pa0 + (p.ptr - ea).toNat
      | none => true
/-- berth: length, region and range are checked, and the payload taken, at issue. -/
def execBerth (o : LOp) (s : State) : Out :=
  s.guarded (.berth o) fun s =>
    let a := s.cx.a
    let r (i : Nat) : Word := a.rdS (o.x.toNat + i)
    let n := (r 2).toNat
    let ea := s.eaB o
    if n = 0 || 4096 < n || n % 8 ≠ 0 then s.permIssue 2 1 ea 0
    else
      s.access needW [s.run1 o ea n 0] ea (fun ps => decodeIf (ea.toNat % 8 ≠ 0 || !oneWindow ea ps)) fun ps =>
        let data := (vrun o.d ((n + 63) / 64)).flatMap fun v => leBytes 64 (a.rdV v).toNat
        s.toPound (s.mkEntry (.berth (r 0) (r 1) n) ps (data.take n) none none)
/-- ownx. -/
def execOwnx (o : LOp) (s : State) : Out :=
  s.guarded (.ownx o) fun s =>
    let ea := s.eaB o
    s.access needRW [s.run1 o ea 1 0] ea (fun ps => decodeIf (anyIn ps fun r => !(r == .hbm || r == .llc))) fun ps =>
      s.toSq (s.mkEntry (.ownx ((s.S (o.d.setWidth 6)).setWidth 16)) ps [] none (some 3))

/-! ### Line monitors (R345 to R347) -/

/-- monarm: an ld at the home that arms the monitor. -/
def execMonarm (o : LOp) (s : State) : Out :=
  s.guarded (.monarm o) fun s =>
    let w := laneBytes o.ty
    let ea := s.ea o
    s.access needR [s.run1 o ea w 0] ea (fun ps => decodeIf (ea.toNat % w ≠ 0 || inCtl ps)) fun ps =>
      s.sendLoad (.monarm o.d.toNat w (o.ty < 4)) 12 (o.d ≠ 0) ps (acqOf o)
/-- A MONWAIT completes when its monitor has fired or is lost; an earlier monarm still on its way decides it (R347). -/
def Ctx.monSettle (x : Ctx) : Ctx :=
  match x.monwait with
  | none => x
  | some m =>
    let coming := x.lq.any fun e => e.seq < m.seq && (match e.kind with | .monarm _ _ _ => true | _ => false)
    let fin (v : Word) : Ctx := { x.arrive m.seq [.s m.d v] with mon := .off, monwait := none }
    match x.mon with
    | .fired => if coming then x else fin 1
    | .armed _ => x
    | _ => if coming then x else fin 2
/-- monwait: acts at issue; the next bundle waits until it completes. -/
def execMonwait (o : LOp) (s : State) : Out :=
  s.guarded (.monwait o) fun s =>
    let cyc := (s.core s.foc.core).cyc.toNat
    let m : MonWait := ⟨o.d.toNat, s.cx.seq, cyc, (s.S o.x).toNat⟩
    let s := s.await 1 (o.d ≠ 0) false
    s.setCx { s.cx with monwait := some m }.monSettle

/-! ### Prefetch and cache maintenance (R348, R349) -/

/-- Translation of a line by the extents alone, for a read. -/
def extRead (x : Ctx) (n : CoreN) (va len : Nat) : Option Tr :=
  match trExt x.ext x.lw n va len needR with
  | .hit t _ => some t
  | _ => none
/-- pref: a load-queue entry of the lines that translate; it never faults. -/
def execPref (o : LOp) (s : State) : Out :=
  s.guarded (.pref o) fun s =>
    let ea := s.ea o
    let blk := if bitAt o.fn 2 then 256 else 64
    let va0 := fld ea 0 48 / blk * blk
    let ps := (List.range (blk / 64)).filterMap fun i =>
      let va := va0 + 64 * i
      (extRead s.cx s.foc.core va 64).map fun t => (⟨putFld ea 0 48 va, 64, 64 * i, some t⟩ : Piece)
    if nonCanonical (s.S o.b) ea || ps.isEmpty then s else s.toLq (s.mkEntry (.pref o.fn) ps [] none none)
/-- cwb: into the pound like a store; needs RD. -/
def execCwb (o : LOp) (s : State) : Out :=
  s.guarded (.cwb o) fun s =>
    let ea := s.ea o
    s.access needR [s.run1 o ea 1 0] ea (fun _ => none) fun ps =>
      s.toPound (s.mkEntry .cwb ps [] none none)
/-- A translation the cluster walker holds for an address (R29, R31). -/
def tlbFind (l : List Tlb) (asid : BitVec 16) (va : Nat) : Option Tlb :=
  l.find? fun t => t.asid == asid && t.vbase ≤ va && va < t.vbase + t.size
/-- cinv: at issue, the superblock's lines go, but for held ones; dropped where no translation is at hand. -/
def execCinv (o : LOp) (s : State) : Out :=
  s.guarded (.cinv o) fun s =>
    let n := s.foc.core
    let x := s.cx
    let ea := s.ea o
    let va := fld ea 0 48
    let pa := match trExt x.ext x.lw n va 1 ⟨false, false, false⟩ with
      | .hit t _ => some t.pa
      | .denied _ _ => none
      | .miss => (tlbFind (s.cluster (clusterOf n)).tlb x.asid va).map fun t => t.pbase + (va - t.vbase)
    match pa with
    | none => s
    | some pa =>
      let held := s.heldLines n
      let sb := pa / 256
      s.setCore n { s.core n with cache := (s.core n).cache.filter fun l => l.1 / 4 ≠ sb || held.contains l.1 }
def execCinvAll (o : LOp) (s : State) : Out := s.guarded (.cinvAll o) fun s => s.discardCache s.foc.core

/-! ### Memory tags (R350, R351) -/

/-- tagset: one tag write a granule, in ascending order. -/
def execTagset (o : LOp) (s : State) : Out :=
  s.guarded (.tagset o) fun s =>
    let ea := s.eaB o
    let n := o.fn.toNat + 1
    let grans := (List.range n).map fun i => s.run1 o (ea + BitVec.ofNat 64 (32 * i)) 32 (32 * i)
    s.access needW grans ea
      (fun ps => decodeIf (ea.toNat % 32 ≠ 0
        || ps.any fun p => match p.tr with | some t => !tagged t.pa | none => false)) fun ps =>
      (List.range n).foldl (fun s i =>
        s.toPound (s.mkEntry (.tagset ((s.S (o.d.setWidth 6)).setWidth 4))
          ((ps.filter fun p => p.off / 32 == i).map fun p => { p with off := p.off % 32 }) [] none none)) s
/-- tagrd. -/
def execTagrd (o : LOp) (s : State) : Out :=
  s.guarded (.tagrd o) fun s =>
    let ea := s.eaB o
    s.access needR [s.run1 o ea 1 0] ea
      (fun ps => decodeIf (ps.any fun p => match p.tr with | some t => !tagged t.pa | none => false)) fun ps =>
      s.sendLoad (.tagrd o.d.toNat) 12 (o.d ≠ 0) ps none

/-! ### Creating and releasing work (R299 to R303) -/

/-- trigger: a record's later ones act only as fence.rel.pkg (R139). -/
def execTrigger (o : LOp) (s : State) : Out :=
  s.guarded (.trigger o) fun s =>
    if s.hasTriggered s.foc.core s.foc.ctx then s.mark ⟨s.cx.seq, false, false, true, 3⟩
    else (s.setCx { s.cx with triggered := true }).toSq (s.mkEntry .trigger [] [] none (some 3))
/-- spawn: the record is 64-byte aligned, in HBM and readable. -/
def execSpawn (o : LOp) (s : State) : Out :=
  s.guarded (.spawn o) fun s =>
    let ea := s.eaB o
    s.access needR [s.run1 o ea 64 0] ea
      (fun ps => decodeIf (ea.toNat % 64 ≠ 0 || anyIn ps fun r => r != .hbm)) fun ps =>
      s.toSq (s.mkEntry (.spawn ((s.S (o.d.setWidth 6)).setWidth 12)) ps [] none (some 3))
/-- launch: header readable, first byte of the instance area writable and in HBM (R302). -/
def execLaunch (o : LOp) (s : State) : Out :=
  s.guarded (.launch o) fun s =>
    let ea := s.eaB o
    let ar := s.S (o.d.setWidth 6)
    s.access needR [s.run1 o ea 64 0] ea (fun ps => decodeIf (ea.toNat % 64 ≠ 0 || inCtl ps)) fun ps =>
      s.access needW [⟨ar, ar, 1, 64⟩] ar
        (fun qs => decodeIf (ar.toNat % 64 ≠ 0 || anyIn qs fun r => r != .hbm)) fun qs =>
        s.toSq (s.mkEntry (.launch 0) (ps ++ qs) [] none (some 3))
/-- A range unit's address (R303). -/
def isRangeUnit (pa : Nat) : Bool :=
  ctlBase ≤ pa && pa < ctlBase + 0x80000000
    && (let o := (pa - ctlBase) % 0x10000000; 0x320000 ≤ o && o < 0x320800) && pa % 32 = 0
/-- gssnext: start and count land 24 cycles later. -/
def execGssnext (o : LOp) (s : State) : Out :=
  s.guarded (.gssnext o) fun s =>
    let ea := s.eaB o
    s.access needW [s.run1 o ea 32 0] ea (fun ps => decodeIf (ea.toNat % 32 ≠ 0 || !knownAll ps isRangeUnit)) fun ps =>
      (s.await 24 (o.d ≠ 0 || o.x ≠ 0) true).toSq (s.mkEntry (.gssnext o.d.toNat o.x.toNat) ps [] none none)

end Sys2Proof.Machine
end

