-- ==== Sys2Proof/Machine/SlotX.lean ====
section
/-! DEFINITION. Slot X: scale registers, slice moves, bound and signature registers (R365 to R369, R386 to R388). -/

namespace Sys2Proof.Machine

/-! ### Scale registers (R368, R369) -/

/-- The sixteen scales of sld from nibble p on, each row of b blocks starting at a byte boundary; and the last position. -/
def sldRows (nib : Nat → Nat) (b : Nat) : Nat → Nat → List Nat × Nat
  | 0, p => ([], p)
  | fuel + 1, p =>
    let r := sdec nib b ((p + 1) / 2 * 2) 127
    let t := sldRows nib b fuel r.2
    (r.1 ++ t.1, t.2)
def execSld (o : XOp) (s : State) : Out :=
  s.guarded (.sld o) fun s =>
    let off := s.S o.s
    if off >>> 6 ≠ 0 then
      -- R368: the result is undefined and the operation is issued
      let a := s.free
      let b := a.2.free
      let c := b.2.free
      c.2.land 4 [.k o.t.toNat 0xFFFF (a.1 ++ b.1), .s o.s.toNat c.1]
    else
      let v0 := s.V o.v
      let v1 := s.V (o.v + 1)
      let nib (p : Nat) : Nat := if p < 128 then fld v0 (4 * p) 4 else fld v1 (4 * (p - 128)) 4
      let b := 2 ^ o.idx.toNat
      let r := sldRows nib b (16 / b) (2 * off.toNat)
      s.land 4 [.k o.t.toNat 0xFFFF (BitVec.ofNat 128 (packLanes 8 r.1)), .s o.s.toNat (BitVec.ofNat 64 ((r.2 + 1) / 2))]
def execKwr (o : XOp) (s : State) : Out :=
  s.guarded (.kwr o) fun s => s.land 1 [.k o.t.toNat 0xFFFF ((s.V o.v).setWidth 128)]
def execKrd (o : XOp) (s : State) : Out :=
  s.guarded (.krd o) fun s => s.land 2 [.v o.v.toNat ((s.cx.a.rdK o.t.toNat).setWidth 512)]

/-! ### Slice moves (R365) -/

/-- Index of a slice move. -/
def State.sliceIdx (s : State) (o : XOp) : Nat := o.idx.toNat + (s.S o.s).toNat
/-- Bytes of consecutive vector registers as a number. -/
def State.vrunNat (s : State) (v : VNum) (n : Nat) : Nat :=
  packLanes 512 ((List.range n).map fun i => (s.V (v + BitVec.ofNat 10 i)).toNat)
/-- A number written to consecutive vector registers. -/
def vrunW (v : VNum) (n x : Nat) : List Write :=
  (List.range n).map fun i => .v (v + BitVec.ofNat 10 i).toNat (BitVec.ofNat 512 (x / 2 ^ (512 * i)))
/-- Binary32 form of an accumulator cell, as a reader in the state before the bundle sees it. -/
def Arch.cell32 (a : Arch) (n i j : Nat) : Nat :=
  let w := a.acc.cellP n i j
  if a.acc.precOf n then rne fmt32 (cellVal true w) else fld w 0 32
/-- Row i of a tile or accumulator code as a number. -/
def Arch.rowNat (a : Arch) (t i : Nat) : Nat :=
  if t < 8 then (a.row t i).toNat % 2 ^ (8 * (a.shapeOf t).rlen)
  else packLanes 32 ((List.range 32).map fun j => a.cell32 (t - 8) i j)
/-- Word j of row i. -/
def Arch.tileWord (a : Arch) (t i j : Nat) : Nat :=
  if t < 8 then fld (a.row t i) (32 * j) 32 else a.cell32 (t - 8) i j
/-- A write of cells of an accumulator that no engine makes: marked as written (R179), at A32 when that `was` its precision, and under
escalation when it is an A32 accumulator re-executed (R169, R357). -/
def Ctx.touchAcc (x : Ctx) (d : Nat) (was : Bool) : Ctx :=
  let b : BitVec 4 := 1 <<< d
  let esc := bitAt x.a.besc 0 && !was
  { x with
    wrAcc := x.wrAcc ||| b
    wr32 := if was then x.wr32 else x.wr32 ||| b
    esc := if esc then x.esc ||| b else x.esc }
/-- Whether a write of cells to an accumulator is one under escalation: the interval is re-executed, and the accumulator is an A32 one, or one
that counts as A64 for that re-execution alone (R169, R357). -/
def Ctx.escAcc (x : Ctx) (d : Nat) : Bool := bitAt x.a.besc 0 && (!x.a.ev.precOf d || bitAt x.esc d)
/-- A write of an accumulator's bound (R167). -/
def Ctx.touchBnd (x : Ctx) (t : Nat) : Ctx := if t < 8 then x else { x with wrBnd := x.wrBnd ||| (1 <<< (t - 8)) }

def execTrw (o : XOp) (s : State) : Out :=
  s.guarded (.trw o) fun s =>
    let a := s.cx.a
    let t := o.t.toNat
    let i := s.sliceIdx o
    let src := s.vrunNat o.v (a.rowRegs t)
    if t < 8 then
      let sh := a.shapeOf t
      s.land 2 [.tile t [rowW i sh.rlen src] (if sh.rows = 1 then some 0 else none) (some .none)]
    else
      let s := s.land 2 [.accw (t - 8) ((List.range 32).map fun j => (32 * i + j, BitVec.ofNat 32 (src / 2 ^ (32 * j))))
        (s.cx.escAcc (t - 8))]
      s.setCx (s.cx.touchAcc (t - 8) (a.ev.precOf (t - 8)))
def execTrr (o : XOp) (s : State) : Out :=
  s.guarded (.trr o) fun s =>
    let a := s.cx.a
    let t := o.t.toNat
    s.land 3 (vrunW o.v (a.rowRegs t) (a.rowNat t (s.sliceIdx o)))
def execTcw (o : XOp) (s : State) : Out :=
  s.guarded (.tcw o) fun s =>
    let a := s.cx.a
    let t := o.t.toNat
    let i := s.sliceIdx o
    let w (m : Nat) : Nat := lane 32 (s.V (o.v + BitVec.ofNat 10 (m / 16))) (m % 16)
    if t < 8 then
      s.land 2 [.tile t ((List.range (a.rowsOf t)).map fun m => ⟨m, 32 * i, 32, w m⟩) none (some .none)]
    else
      let s := s.land 2 [.accw (t - 8) ((List.range 32).map fun m => (32 * m + i, BitVec.ofNat 32 (w m))) (s.cx.escAcc (t - 8))]
      s.setCx (s.cx.touchAcc (t - 8) (a.ev.precOf (t - 8)))
def execTcr (o : XOp) (s : State) : Out :=
  s.guarded (.tcr o) fun s =>
    let a := s.cx.a
    let t := o.t.toNat
    let i := s.sliceIdx o
    s.land 4 (vrunW o.v (a.colRegs t) (packLanes 32 ((List.range (a.rowsOf t)).map fun m => a.tileWord t m i)))
/-- Marks of tzero: a write at A32; the writes of the interval before it stay under escalation (R169). -/
def Ctx.markZero (x : Ctx) (d : Nat) : Ctx :=
  let b : BitVec 4 := 1 <<< d
  { x with wrAcc := x.wrAcc ||| b, wrBnd := x.wrBnd ||| b, wr32 := x.wr32 ||| b }
/-- tzero (R366). -/
def execTzero (o : XOp) (s : State) : Out :=
  s.guarded (.tzero o) fun s =>
    let t := o.t.toNat
    if t < 8 then
      s.land 1 [.tile t ((List.range 32).map fun i => rowW i 144 0) (some 0) (some .zero)]
    else
      let s := s.land 1 [.acc (t - 8) ((List.range 1024).map fun q => (q, 0, 0)) (some false) (some 0) 0 0]
      s.setCx (s.cx.markZero (t - 8))

/-! ### Bound and signature registers (R386 to R388) -/

def execBrd (o : XOp) (s : State) : Out :=
  s.guarded (.brd o) fun s => s.landS 1 o.s ((s.cx.a.bound o.t.toNat).setWidth 64)
/-- bwr: bit 31 cleared, a NaN becomes +∞. -/
def bndIn (x : BitVec 32) : BitVec 32 :=
  let y := x &&& 0x7FFFFFFF
  if 0x7F800000 < y then bInf else y
def execBwr (o : XOp) (s : State) : Out :=
  s.guarded (.bwr o) fun s =>
    let s := s.land 1 [.bnd o.t.toNat (bndIn ((s.S o.s).setWidth 32))]
    s.setCx (s.cx.touchBnd o.t.toNat)
def execBchk (o : XOp) (s : State) : Out :=
  s.guarded (.bchk o) fun s =>
    s.land 2 [.p (fld o.idx 0 4) (bndPass s.cx.a.acc (o.t.toNat - 8) (s.csrSeen s.foc.core s.foc.ctx 0x20))]
def execBclr (o : XOp) (s : State) : Out :=
  s.guarded (.bclr o) fun s =>
    let s := s.land 1 [.bnd o.t.toNat 0]
    s.setCx (s.cx.touchBnd o.t.toNat)
def execSgrd (o : XOp) (s : State) : Out :=
  s.guarded (.sgrd o) fun s =>
    let a := s.cx.a
    s.landS 1 o.s (mget 0 (if bitAt o.idx 0 then a.sgs else a.sgp) (o.t.toNat - 8))
/-- sgclr: its bundle is a checkpoint bundle; the pair is zeroed together. -/
def execSgclr (o : XOp) (s : State) : Out :=
  s.guarded (.sgclr o) fun s => s.land 1 [.sgz (o.t.toNat - 8)]

end Sys2Proof.Machine
end

