-- ==== Sys2Proof/Machine/TileMem.lean ====
section
/-! DEFINITION. Tile loads, stores and sends, tile configuration, save and restore (R69 to R76, R356 to R364, R375, R376,
R393 to R396): their issue, and what a configuration or an image means. -/

namespace Sys2Proof.Machine

/-! ### Sidecars and folds (R69 to R72) -/

/-- Pointer of the sidecar of an image base, and the base of its canonical test. -/
def sidecarPtr (guard b : Word) : Word × Word :=
  let key := BitVec.ofNat 64 (fld guard 48 4 * 2 ^ 48)
  (key, key + BitVec.ofNat 64 (fld guard 12 36 * 4096 + 16 * fld b 6 42))
/-- Memory fold of an image (R72): rows of `rlen` bytes one after the other. -/
def memFold (rlen : Nat) (bs : List Byte) : Word :=
  let nw := rlen / 4
  let rec go : Nat → Nat → List Byte → Word → Word
    | 0, _, _, t => t
    | fuel + 1, q, bs, t =>
      match bs with
      | a :: b :: c :: d :: r =>
        let e := leNat [a, b, c, d]
        go fuel (q + 1) r (t + BitVec.ofNat 64 (e * (2 * (64 * (q / nw) + q % nw) + 1)))
      | _ => t
  if nw = 0 then 0 else go (bs.length / 4 + 1) 0 bs 0
/-- FMT of a sidecar for a tile type (R361). -/
def sideFmt (ty : BitVec 4) : Nat :=
  match ty.toNat with
  | 8 => 0 | 9 => 1 | 10 => 2 | 11 => 3 | 12 => 4 | 13 => 5 | 0 => 6 | _ => 7
/-- Second word of a sidecar (R71). -/
def sideWord (fmt rlen rows : Nat) (bound : BitVec 32) : Word :=
  putFld (putFld (putFld (putFld (putFld 0 63 1 1) 48 8 rlen) 43 5 (rows - 1)) 36 4 fmt) 0 32 bound.toNat
/-- The bytes of a sidecar. -/
def sideBytes (sig w1 : Word) : List Byte := leBytes 8 sig.toNat ++ leBytes 8 w1.toNat
/-- A bound of memory: negative or NaN is not one (R71, R376). -/
def badBound (b : Nat) : Bool := 0x7F800000 < b % 2 ^ 32
/-- Malformed sidecar (R71), of one with V = 1. -/
def sideMalformed (w1 : Word) : Bool :=
  7 < fld w1 36 4 || fld w1 56 7 ≠ 0 || fld w1 40 3 ≠ 0 || fld w1 32 4 ≠ 0
    || fld w1 48 8 < 4 || 144 < fld w1 48 8 || fld w1 48 8 % 4 ≠ 0 || badBound (fld w1 0 32)

/-! ### Rows of a tile operation (R361) -/

/-- Row stride of an operation. -/
def State.stride (s : State) (o : LOp) (rb : Nat) : Word := if o.x = 0 then BitVec.ofNat 64 rb else s.S o.x
/-- Runs of the first `c` rows of `rb` bytes. -/
def State.rowRuns (s : State) (o : LOp) (c rb : Nat) : List Run1 :=
  (List.range c).map fun i => s.run1 o (s.eaB o + BitVec.ofNat 64 i * s.stride o rb) rb (rb * i)
/-- The sidecar's run. -/
def State.sideRun (s : State) (o : LOp) (off : Nat) : Run1 :=
  let p := sidecarPtr s.cx.guard (s.eaB o)
  ⟨p.1, p.2, 16, off⟩
/-- Base and stride are multiples of 4; with a sidecar the base is one of 64 (subcause 4). A base that is neither is reported by the first
rule, as decode (log entry 64). -/
def State.tileAddrBad (s : State) (o : LOp) (rb : Nat) (sc : Bool) : Option Nat :=
  if (s.eaB o).toNat % 4 ≠ 0 || (s.stride o rb).toNat % 4 ≠ 0 then some 2
  else if sc && (s.eaB o).toNat % 64 ≠ 0 then some 4
  else none

/-! ### Tile load (R362, R363) -/

/-- Own scratchpad. -/
def ownSpad (n : CoreN) (pa : Nat) : Bool := regionOf pa == .spad && spadCore pa == n.toNat
/-- Pieces that a multicast writes: those of the rows, and the sidecar unless it is known to lie outside the own scratchpad (R363). -/
def mcastPieces (n : CoreN) (img : Nat) (ps : List Piece) : List Piece :=
  ps.filter fun p => p.off < img || (match p.tr with | some t => ownSpad n t.pa | none => true)
/-- tld: one load entry with its sidecar, which orders even when its count is 0 and it writes nothing (R122, R362); a multicast write in
the pound, whose rows lie in the own scratchpad, addressed through its window or the own-core local form, not the cluster range (R363). -/
def execTld (o : LOp) (s : State) : Out :=
  s.guarded (.tld o) fun s =>
    let x := s.cx
    let n := s.foc.core
    let sh := x.a.shapeOf o.tcode
    let c := min sh.rows (s.cnt o.vcnt)
    let chk := bitAt o.fn 0
    let mc := bitAt o.fn 1
    let img := sh.rows * sh.rlen
    let runs := if c = 0 then [] else s.rowRuns o c sh.rlen ++ (if chk then [s.sideRun o img] else [])
    s.access needR runs (s.eaB o)
      (fun ps => (s.tileAddrBad o sh.rlen chk).orElse fun _ => decodeIf (inCtl ps
        || (mc && ps.any fun p => p.off < img && (match p.tr with | some t => !ownSpad n t.pa || clusterForm x n p | none => false))))
      fun ps =>
        let kind := EKind.tld o.tcode c sh.rows sh.rlen o.ty chk (s.eaB o) (s.stride o sh.rlen) false mc
        let s' := s.sendLoad kind (16 + (img + 127) / 128) (c ≠ 0) ps (acqOf o)
        let mask := x.a.rdM o.mreg.toNat &&& ~~~((1 : Word) <<< (n.toNat % 64))
        if mc && mask ≠ 0 && c ≠ 0 then s'.toPound (s.mkEntry (.mcast mask x.seq img) (mcastPieces n img ps) [] none none) else s'

/-! ### Tile store and send (R364, R393 to R396) -/

/-- Row bytes of a stored tile or accumulator. -/
def Arch.storeRb (a : Arch) (t : Nat) (ty : BitVec 4) : Nat :=
  if t < 8 then (a.shapeOf t).rlen else if ty == 9 then 256 else 128
/-- Bytes of row i as stored. -/
def Arch.storeRow (a : Arch) (t i : Nat) (ty : BitVec 4) : List Byte :=
  if t < 8 then a.tileRow t i (a.shapeOf t).rlen
  else (List.range 32).flatMap fun j =>
    if ty == 9 then
      let w := a.acc.cellP (t - 8) i j
      leBytes 8 (if a.acc.precOf (t - 8) then w.toNat else rne fmt64 (cellVal false w))
    else leBytes 4 (a.cell32 (t - 8) i j)
/-- BOUND of the sidecar of a stored tile. -/
def Arch.storeBound (a : Arch) (t : Nat) (ty : BitVec 4) : BitVec 32 :=
  if t < 8 then a.bound t
  else if ty == 8 && a.acc.precOf (t - 8) then
    let vs := accVals a.acc (t - 8) true []
    let st := (List.range 1024).map fun q => valOf fmt32 (a.cell32 (t - 8) (q / 32) (q % 32))
    if st.any fun v => !v.finite then bInf
    else badd (a.bound t) (up32 (rho fmt32 st (vs.any fun v => inexact fmt32 v)))
  else a.bound t
/-- The bytes a tile store takes: the rows, then the sidecar. -/
def State.storeData (s : State) (o : LOp) (c : Nat) (sc : Bool) : List Byte × Word :=
  let a := s.cx.a
  let t := o.tcode
  let rb := a.storeRb t o.ty
  let img := (List.range c).flatMap fun i => a.storeRow t i o.ty
  let f := memFold rb img
  (img ++ (if sc then sideBytes f (sideWord (sideFmt o.ty) rb c (a.storeBound t o.ty)) else []), f)
/-- tst: the bytes enter the pound with the sidecar after them. -/
def execTst (o : LOp) (s : State) : Out :=
  s.guarded (.tst o) fun s =>
    let a := s.cx.a
    let rb := a.storeRb o.tcode o.ty
    let c := min (a.rowsOf o.tcode) (s.cnt o.vcnt)
    let sc := bitAt o.fn 0
    let runs := if c = 0 then [] else s.rowRuns o c rb ++ (if sc then [s.sideRun o (c * rb)] else [])
    s.access needW runs (s.eaB o)
      (fun ps => (s.tileAddrBad o rb sc).orElse fun _ => decodeIf (inCtl ps)) fun ps =>
        let d := s.storeData o c sc
        if c = 0 then s else
        s.toPound (s.mkEntry (.tst d.2 (c * rb) rb) ps d.1 none none)
/-- tsend: a tile store carried by a copy engine. -/
def execTsend (o : LOp) (s : State) : Out :=
  s.guarded (.tsend o) fun s =>
    let a := s.cx.a
    let rb := a.storeRb o.tcode o.ty
    let c := min (a.rowsOf o.tcode) (s.cnt o.vcnt)
    let sc := bitAt o.fn 0
    let bh := bitAt o.fn 1
    let cw := bitAt o.fn 2
    let r (i : Nat) : Word := a.rdS (o.x.toNat + i)
    let sc' := sc && c ≠ 0
    let img := c * rb
    let d := s.storeData o c sc'
    let runs := s.rowRuns o c rb ++ (if sc' then [s.sideRun o img] else [])
      ++ (if cw then [⟨r 3, r 3, 8, d.1.length⟩] else [])
    let badRegion (ps : List Piece) : Bool := ps.any fun p =>
      match p.tr with
      | none => false
      | some t =>
        let g := regionOf t.pa
        g == .ctl || g == .host || (cw && p.off = d.1.length && g == .peer)
          || (bh && p.off < img && g != .spad)
    let payload (ps : List Piece) : List Piece := ps.filter fun p => p.off < img
    s.access needW runs (s.eaB o)
      (fun ps => (s.tileAddrBad o rb sc').orElse fun _ =>
        decodeIf (badRegion ps || (cw && (r 3).toNat % 8 ≠ 0)
          || (bh && (s.stride o rb ≠ BitVec.ofNat 64 rb || (s.eaB o).toNat % 8 ≠ 0 || img < 8 || 4096 < img || img % 8 ≠ 0
            || !oneWindow (s.eaB o) (payload ps)))))
      fun ps =>
        let kind := EKind.tsend d.2 img rb (if bh then some (r 1, r 2) else none) (if cw then some d.1.length else none)
        s.toPound (s.mkEntry kind ps (d.1 ++ (if cw then leBytes 8 0 else [])) none none)

/-! ### Tile configuration (R356, R360) -/

/-- Bytes i .. i + n of a list as a number. -/
def slice (bs : List Byte) (i n : Nat) : Nat := leNat ((bs.drop i).take n)
/-- A configuration block read from memory. -/
structure TileBlk where
  on : Bool
  sh : List Shape
  deriving DecidableEq, Repr
/-- A word of a block that is no shape (R356). -/
def wordBad (w : Nat) : Bool :=
  let rows := w % 256
  let rlen := w / 256 % 256
  65536 ≤ w || 32 < rows || (rows ≠ 0 && (rlen < 4 || 144 < rlen || rlen % 4 ≠ 0)) || (rows = 0 && rlen ≠ 0)
/-- Malformed block (R356). -/
def blkBad (bs : List Byte) : Bool :=
  let ws := (List.range 8).map fun n => slice bs (4 * n) 4
  let on := slice bs 32 8
  1 < on || slice bs 40 24 ≠ 0 || (on = 0 && ws.any (· ≠ 0)) || ws.any wordBad
def blkOf (bs : List Byte) : TileBlk :=
  ⟨slice bs 32 8 = 1, (List.range 8).map fun n => ⟨slice bs (4 * n) 1, slice bs (4 * n + 1) 1⟩⟩
/-- Footprint in KiB (R41). -/
def footKiB (b : TileBlk) : Nat :=
  if !b.on then 0
  else (32768 + (b.sh.map fun h => h.rows * ((h.rlen + 15) / 16 * 16)).sum + 1023) / 1024
/-- Reason 4 or 3 for a block (R359, R360). -/
def blkReason (bs : List Byte) (tres : Nat) : Option Nat :=
  if blkBad bs then some 4 else if tres < footKiB (blkOf bs) then some 3 else none
/-- Code of the tile that a malformed block concerns: the first whose word is not a shape; 0 where no one tile is concerned. -/
def blkTile (bs : List Byte) (r : Nat) : Nat :=
  if r ≠ 4 then 0 else ((List.range 8).find? fun n => wordBad (slice bs (4 * n) 4)).getD 0
/-- The configuration taken. -/
def Arch.takeCfg (a : Arch) (b : TileBlk) : Arch :=
  { a with
    ton := b.on
    shape := msets ⟨0, 0⟩ a.shape ((List.range 8).zip b.sh)
    tfoot := BitVec.ofNat 8 (footKiB b) }
/-- The rows of a tile zeroed. -/
def Arch.zeroTile (a : Arch) (t : Nat) : Arch :=
  { a with tile := msets 0 a.tile ((List.range 32).map fun i => (32 * t + i, 0)) }
/-- tcfg acts (R360). -/
def Arch.tcfg (a : Arch) (b : TileBlk) : Arch :=
  let a := if b.on && !a.ton then { a with acc := .zero, ev := .zero } else a
  let a := ((List.range 8).zip b.sh).foldl (fun a p =>
    if a.shapeOf p.1 = p.2 then a
    else
      let z := a.zeroTile p.1
      { z with bt := mset 0 z.bt p.1 0, origin := mset .none z.origin p.1 .zero }) a
  a.takeCfg b
/-- tcfg: one load entry; the context waits for it and for its tile results. -/
def execTcfg (o : LOp) (s : State) : Out :=
  s.guarded (.tcfg o) fun s =>
    let ea := s.eaB o
    s.access needR [s.run1 o ea 64 0] ea (fun ps => decodeIf (ea.toNat % 64 ≠ 0 || inCtl ps)) fun ps =>
      s.toLq (s.mkEntry .tcfg ps [] none none)

/-! ### Tile-state images (R375, R376) -/

/-- The configuration block of a state. -/
def Arch.cfgBytes (a : Arch) : List Byte :=
  (List.range 8).flatMap (fun n => leBytes 4 ((a.shapeOf n).rows + 256 * (a.shapeOf n).rlen))
    ++ leBytes 8 (if a.ton then 1 else 0) ++ leBytes 24 0
def originCode : Origin → Nat
  | .none => 0 | .zero => 1 | .load _ _ _ _ _ => 2
def originBytes : Origin → List Byte
  | .load p st f ty chk => leBytes 8 p.toNat ++ leBytes 8 st.toNat ++ leBytes 8 f.toNat
      ++ leBytes 8 (ty.toNat + (if chk then 16 else 0))
  | _ => leBytes 32 0
def Arch.originOf (a : Arch) (t : Nat) : Origin := mget .none a.origin t
/-- STATE word. -/
def Arch.stateWord (a : Arch) : Nat :=
  ((List.range 8).map fun t => originCode (a.originOf t) * 2 ^ (16 + 2 * t)).sum
    + ((List.range 4).map fun n => if a.acc.precOf n then 2 ^ n else 0).sum
/-- First 120 bytes of an image; bytes 120 to 127 are reserved and left unwritten (R408, "written as tsave writes it"). -/
def Arch.imgHead (a : Arch) : List Byte :=
  a.cfgBytes ++ (List.range 8).flatMap (fun t => leBytes 4 (a.bound t).toNat)
    ++ (List.range 4).flatMap (fun n => leBytes 4 (a.acc.baOf n).toNat)
    ++ leBytes 8 a.stateWord
/-- Origin records of an image (R375). -/
def Arch.imgOrigins (a : Arch) : List Byte := (List.range 8).flatMap fun t => originBytes (a.originOf t)
/-- Accumulator area. -/
def Arch.imgAcc (a : Arch) : List Byte :=
  (List.range 4096).flatMap fun q => leBytes 8 (mget 0 a.acc.p q).toNat
/-- What an image writes: offsets and bytes. -/
def Arch.image (a : Arch) : List (Nat × List Byte) :=
  [(0, a.imgHead), (128, a.imgOrigins)] ++ (if a.ton then [(384, a.imgAcc)] else [])
    ++ (List.range 8).flatMap fun t =>
      let sh := a.shapeOf t
      if a.ton && sh.rows ≠ 0 && a.originOf t = .none then
        (List.range sh.rows).map fun i => (33152 + 4608 * t + 144 * i, a.tileRow t i sh.rlen)
      else []
/-- tsave: irrevocable plain stores of the image of the state before its bundle. -/
def execTsave (o : LOp) (s : State) : Out :=
  s.guarded (.tsave o) fun s =>
    let ea := s.eaB o
    let img := s.cx.a.image
    let runs := (img.foldl (fun (p : List Run1 × Nat) q =>
      (p.1 ++ [s.run1 o (ea + BitVec.ofNat 64 q.1) q.2.length p.2], p.2 + q.2.length)) ([], 0)).1
    s.access needW runs ea (fun ps => decodeIf (ea.toNat % 64 ≠ 0 || inCtl ps)) fun ps =>
      s.toSq (s.mkEntry .st ps (img.flatMap (·.2)) none none)
/-- trest: one load entry for the image; the reloads join it once the image is read. -/
def execTrest (o : LOp) (s : State) : Out :=
  s.guarded (.trest o) fun s =>
    let ea := s.eaB o
    s.access needR [s.run1 o ea 70016 0] ea (fun ps => decodeIf (ea.toNat % 64 ≠ 0 || inCtl ps)) fun ps =>
      s.toLq (s.mkEntry (.trest [] []) ps [] none none)

/-- Reloads an image asks for (R376): tile, pointer, stride, fold, type and check. -/
def imgLoads (bs : List Byte) : List (Nat × Word × Word × Word × BitVec 5) :=
  let st := slice bs 112 8
  (List.range 8).filterMap fun t =>
    let o := 128 + 32 * t
    if st / 2 ^ (16 + 2 * t) % 4 = 2 && slice bs (4 * t) 1 ≠ 0 then
      some (t, BitVec.ofNat 64 (slice bs o 8), BitVec.ofNat 64 (slice bs (o + 8) 8), BitVec.ofNat 64 (slice bs (o + 16) 8),
        BitVec.ofNat 5 (slice bs (o + 24) 1))
    else none
/-- The first tile whose origin or bound makes an image invalid: t0 to t7, then acc0 to acc3 (R258, R376). -/
def imgBadTile (bs : List Byte) : Option Nat :=
  (List.range 12).find? fun t =>
    badBound (slice bs (64 + 4 * t) 4) || (t < 8 &&
      ((slice bs (4 * t) 1 ≠ 0 && slice bs 112 8 / 2 ^ (16 + 2 * t) % 4 = 3) || 32 ≤ slice bs (128 + 32 * t + 24) 8))
/-- Reason 6 for the STATE word, the origins and the bounds of an image. -/
def imgBad (bs : List Byte) : Bool :=
  let st := slice bs 112 8
  2 ^ 32 ≤ st || st / 16 % 2 ^ 12 ≠ 0 || (imgBadTile bs).isSome
/-- Code of the tile that an invalid image concerns; 0 for the STATE word. -/
def imgTile (bs : List Byte) : Nat :=
  let st := slice bs 112 8
  if 2 ^ 32 ≤ st || st / 16 % 2 ^ 12 ≠ 0 then 0 else (imgBadTile bs).getD 0
/-- The origin a trailer or image gives. -/
def originAt (code : Nat) (bs : List Byte) : Origin :=
  match code with
  | 1 => .zero
  | 2 => .load (BitVec.ofNat 64 (slice bs 0 8)) (BitVec.ofNat 64 (slice bs 8 8)) (BitVec.ofNat 64 (slice bs 16 8))
      (BitVec.ofNat 4 (slice bs 24 1)) (slice bs 24 1 / 16 % 2 = 1)
  | _ => .none
/-- The tile state an image gives (R376): `rel` the bytes read for the tiles with origin LOAD. `sig` says that a trest takes it: signatures
take the folds of the accumulators, under escalation those of their binary64 cells (R177). -/
def Arch.fromImage (a : Arch) (bs : List Byte) (rel : List (Nat × List Byte)) (sig : Bool) : Arch :=
  let b := blkOf bs
  let st := slice bs 112 8
  let a := a.takeCfg b
  let rows (t : Nat) (get : Nat → Nat) : List (Nat × BitVec 1152) :=
    let n := (a.shapeOf t).rows
    (List.range 32).map fun i => (32 * t + i, if i < n then BitVec.ofNat 1152 (get i) else 0)
  let a := (List.range 8).foldl (fun a t =>
    let sh := a.shapeOf t
    let code := st / 2 ^ (16 + 2 * t) % 4
    let src := ((rel.find? fun r => r.1 = t).map (·.2)).getD []
    let get (i : Nat) : Nat :=
      if code = 1 then 0
      else if code = 2 then slice src (sh.rlen * i) sh.rlen
      else slice bs (33152 + 4608 * t + 144 * i) sh.rlen
    { a with
      tile := msets 0 a.tile (rows t get)
      bt := mset 0 a.bt t (BitVec.ofNat 32 (slice bs (64 + 4 * t) 4))
      origin := mset .none a.origin t (originAt code (bs.drop (128 + 32 * t))) }) a
  -- tsave leaves the accumulator area of an image with ON = 0 unwritten; trest takes its bytes all the same
  let cells (n : Nat) : List (Nat × Word) :=
    if !b.on && !sig then [] else
    (List.range 1024).map fun q => (q, BitVec.ofNat 64 (slice bs (384 + 8192 * n + 8 * q) (if st / 2 ^ n % 2 = 1 then 8 else 4)))
  (List.range 4).foldl (fun a n =>
    let cs := cells n
    let pr := some (decide (st / 2 ^ n % 2 = 1))
    let ba := some (BitVec.ofNat 32 (slice bs (96 + 4 * n) 4))
    let w := cs.map fun c => (c.1, c.2, c.2)
    let wide := bitAt a.besc 0 && st / 2 ^ n % 2 = 0
    let f := if sig then foldCells (if wide then cs.map fun c => (c.1, cellOf32 true (c.2.setWidth 32)) else cs) else 0
    { a with
      acc := a.acc.write n w pr ba
      ev := a.ev.write n w pr ba
      sgp := mset 0 a.sgp n (mget 0 a.sgp n + f)
      sgs := mset 0 a.sgs n (mget 0 a.sgs n + f) }) a

end Sys2Proof.Machine
end

