-- ==== Sys2Proof/Machine/Retire.lean ====
section
/-! DEFINITION. The retirement of an interval (R102, R167 to R171, R179, R184, R390), commit overflow and implicit checkpoints
(R405, R406), quarantine (R184), and the beginning of a pre-emption (R407). -/

namespace Sys2Proof.Machine

/-! ### Suspect scores (R182, R184, R185) -/

/-- A pre-emption begins: no further bundle issues; what is in flight arrives first (R407). -/
def State.beginPreempt (s : State) (n : CoreN) (c : CtxN) (reason : Nat) : State :=
  let s := if reason = 3 && (s.ctx n c).run != .dormant then s.rollback n c 5 else s
  let x := s.ctx n c
  s.setCtx n c { x with run := .ending reason, preq := none, forceReq := false }
/-- Quarantine (R184): QUAR set, the distributor told, every resident context asked to leave. -/
def State.quarantine (s : State) (n : CoreN) : State :=
  if bitAt (s.creg (verReg n 0)) 0 then s
  else
    let s := (s.orCreg (verReg n 0) 1).postEvt n 0 5 0
    allCtx.foldl (fun s c => s.askPreempt n c 7) s
/-- Blame of engines by an amount each, then the threshold test. -/
def State.blame (s : State) (n : CoreN) (prim shad : Bool) (amt : Nat) : State :=
  let s := if prim then s.satAdd (verReg n 8) 0 8 amt else s
  let s := if shad then s.satAdd (verReg n 8) 8 8 amt else s
  let w := s.creg (verReg n 8)
  let q := fld (s.creg (verReg n 0)) 16 8
  if (prim || shad) && (q ≤ fld w 0 8 || q ≤ fld w 8 8) then s.quarantine n else s

/-! ### Pound capacity and implicit checkpoints (R405, R406) -/

/-- Bytes an entry takes in the pound: those it stores, of a send its image and sidecar. -/
def Entry.bytes (e : Entry) : Nat :=
  match e.kind with
  | .tagset _ | .cwb => 0
  | .tsend _ _ _ _ cw => ((e.pieces.filter fun p => cw ≠ some p.off).map (·.len)).sum
  | _ => (e.pieces.map (·.len)).sum
/-- Registers of an undo log once the results in flight have entered theirs. -/
def Ctx.undoSoon (x : Ctx) (undo : List Nat) : List Nat :=
  let l := x.pend.foldl (fun l p => p.ws.foldl addKey l) undo
  x.lq.foldl (fun l e => match e.kind with
    | .vld d _ _ _ => if l.contains d then l else d :: l
    | _ => l) l
/-- The marks of R406: pound or undo log near full. -/
def Ctx.nearFull (x : Ctx) : Bool :=
  112 ≤ x.pound.length || 57344 ≤ (x.pound.map Entry.bytes).sum || 480 ≤ x.undo.length
/-- A valid count as a context reads it. -/
def Ctx.cnt (x : Ctx) (c : Option Reg) : Nat := match c with | none => 4096 | some r => (x.a.rdS r.toNat).toNat
/-- Active lanes of a vector store. -/
def Ctx.lanesOn (x : Ctx) (o : LOp) : Nat :=
  ((List.range (laneCount o.ty)).filter fun i => (!o.mu || bitAt (x.a.rdM o.mreg.toNat) i) && i < x.cnt o.vcnt).length
/-- Entries and bytes the operation of a plan puts into the pound. A multicast write's sidecar counts unless it is known to lie outside the
core's scratchpad. -/
def poundNeed (n : CoreN) (x : Ctx) (i : Instr) : Nat × Nat :=
  let a := x.a
  let rows (o : LOp) : Nat := min (a.rowsOf o.tcode) (x.cnt o.vcnt)
  match i with
  | .st o => if o.ord = 0 then (1, laneBytes o.ty) else (0, 0)
  | .vst o | .vsts o | .vscat o => if x.lanesOn o = 0 then (0, 0) else (1, x.lanesOn o * laneBytes o.ty)
  | .cwb _ => (1, 0)
  | .tagset o => (o.fn.toNat + 1, 0)
  | .berth o => (1, min 4096 (a.rdS (o.x.toNat + 2)).toNat)
  | .tst o | .tsend o =>
    let c := rows o
    let send := match i with | .tsend _ => true | _ => false
    if c = 0 && !send then (0, 0)
    else (1, c * a.storeRb o.tcode o.ty + if bitAt o.fn 0 && c ≠ 0 then 16 else 0)
  | .tld o =>
    let mask := a.rdM o.mreg.toNat &&& ~~~((1 : Word) <<< (n.toNat % 64))
    let c := rows o
    let side := sidecarPtr x.guard (a.rdS o.b.toNat + o.disp)
    let out := match issueTr x n needR [⟨side.1, side.2, 16, 0⟩] with
      | .ok ps => ps.any fun p => match p.tr with | some t => !ownSpad n t.pa | none => false
      | .bad _ _ _ => false
    if bitAt o.fn 1 && mask ≠ 0 && c ≠ 0 then (1, c * (a.shapeOf o.tcode).rlen + if bitAt o.fn 0 && !out then 16 else 0) else (0, 0)
  | _ => (0, 0)
/-- Commit overflow of a bundle: subcause 0 for the pound, 1 for the undo log. A checkpoint bundle finds both emptied by the
retirement it brings, so only its own entries and the results in flight count. -/
def Ctx.overflow (x : Ctx) (n : CoreN) (ckpt : Bool) (ops : List Instr) : Option Nat :=
  let need := ops.map (poundNeed n x)
  let pound := if ckpt then [] else x.pound
  let soon := ops.foldl (fun l i => (writesOf x.a i).foldl (fun l r =>
    let k := if r.1 = 3 then some r.2 else if r.1 = 8 then some (1024 + r.2) else none
    match k with
    | some k => if l.contains k then l else k :: l
    | none => l) l) (x.undoSoon (if ckpt then [] else x.undo))
  if (need.any fun p => p.1 ≠ 0)
      && (128 < pound.length + (need.map (·.1)).sum || 65536 < (pound.map Entry.bytes).sum + (need.map (·.2)).sum)
  then some 0
  else if 512 < soon.length then some 1
  else none
/-- An implicit checkpoint is marked as pending in a core cycle (R406). -/
def Ctx.markNear (x : Ctx) (now : Nat) : Ctx := if x.implAt.isNone && x.nearFull then { x with implAt := some now } else x
/-- 256 core cycles have passed since the mark (R406). -/
def Ctx.overdue (x : Ctx) (now : Nat) : Bool := match x.implAt with | some t => t + 256 ≤ now | none => false

/-! ### Escalation rounding (R169) -/

/-- A binary64 cell rounded to binary32, and whether that is inexact. -/
def roundCell (w : Word) : Word := BitVec.ofNat 64 (rne fmt32 (cellVal true w))
/-- Bound after rounding cells to binary32. -/
def roundBound (b : BitVec 32) (cells : List Word) : BitVec 32 :=
  let vs := cells.map (cellVal true)
  let rs := cells.map fun w => cellVal false (roundCell w)
  if rs.any fun v => !v.finite then bInf else badd b (up32 (rho fmt32 rs (vs.any fun v => inexact fmt32 v)))
/-- An accumulator of a file rounded back to A32. -/
def AccFile.roundAcc (f : AccFile) (n : Nat) : AccFile :=
  if !f.precOf n then f
  else
    let cs := (List.range 1024).map fun q => (q, roundCell (f.cellP n (q / 32) (q % 32)), roundCell (f.cellS n (q / 32) (q % 32)))
    let b := roundBound (f.baOf n) ((List.range 1024).map fun q => f.cellP n (q / 32) (q % 32))
    f.write n cs (some false) (some b)
/-- A pending write under escalation lands rounded; its folds stay those of the binary64 cells. -/
def roundWrite (esc : Bool) : Write → Write
  | .acc r cells (some true) ba fp fs =>
    if esc then
      .acc r (cells.map fun c => (c.1, roundCell c.2.1, roundCell c.2.2)) (some false)
        (ba.map fun b => roundBound b (cells.map (·.2.1))) fp fs
    else .acc r cells (some true) ba fp fs
  | .accw r cells true =>
    let f := foldCells (cells.map fun c => (c.1, cellOf32 true c.2))
    .acc r (cells.map fun c => (c.1, c.2.setWidth 64, c.2.setWidth 64)) (some false) none f f
  | w => w
/-- Accumulators under escalation rounded, and none is any longer: engine order, unless the latest write of the interval made it A64, the
landed cells, and each pending write of the interval that was made under escalation (R169). -/
def Ctx.escRound (x : Ctx) : Ctx :=
  let pend := x.pend.map fun p => if x.ckSeq ≤ p.seq then { p with ws := p.ws.map (roundWrite (x.escSeqs.contains p.seq)) } else p
  (List.range 4).foldl (fun x n =>
    { x with a := { x.a with
        ev := if bitAt x.esc n then x.a.ev.roundAcc n else x.a.ev
        acc := if bitAt x.escL n then x.a.acc.roundAcc n else x.a.acc } }) { x with pend := pend }
/-- No accumulator is under escalation. -/
def Ctx.escDone (x : Ctx) : Ctx := { x with esc := 0, escL := 0, escSeqs := [] }

/-! ### Watchpoints (R401, R418) -/

/-- The watchpoint that a piece matches; `wr` and `rd` say what the access does. -/
def State.watchHit (s : State) (n : CoreN) (c : CtxN) (wr rd : Bool) (ps : List Piece) : Option (Nat × Word) :=
  if !(s.ctx n c).dbg then none
  else
    let hit (i : Nat) (p : Piece) : Bool :=
      let cfg := s.creg (dbgReg n c (0x50 + 8 * i))
      let len := 2 ^ fld cfg 3 5
      let a := fld (s.creg (dbgReg n c (0x40 + 8 * i))) 0 48 / len * len
      let v := fld p.ptr 0 48
      bitAt cfg 0 && ((wr && bitAt cfg 2) || (rd && bitAt cfg 1)) && v < a + len && a < v + p.len
    ((List.range 2).filterMap fun i => (ps.find? (hit i)).map fun p => (i, p.ptr)).head?
/-- Slot that names an access: 7 for the reloads of a restored context (R410). -/
def Entry.slotNo (e : Entry) : Nat := if e.isReload then 7 else e.slot.idx
/-- A cause found when an access completes: named by the entry, not reported while a stop is held (R402, R403). -/
def State.complete (s : State) (n : CoreN) (c : CtxN) (e : Entry) (code sub cls : Nat) (arg : Word) : State :=
  if (s.ctx n c).held then s else s.hold n c ⟨code, sub, cls, arg, e.pc, e.slotNo, e.k, 0⟩
/-- Kinds that count as stores of memory for a watchpoint. -/
def EKind.isWrite : EKind → Bool
  | .st | .tst _ _ _ | .tagset _ | .tsend _ _ _ _ _ | .berth _ _ _ => true
  | _ => false

/-! ### Release of the pound (R102, R390 step 5) -/

/-- The refold of a tile store as it leaves the pound (R73). -/
def Entry.refoldOk (e : Entry) : Bool :=
  match e.kind with
  | .tst f img rlen => memFold rlen (e.data.take img) == f
  | .tsend f img rlen _ _ => memFold rlen (e.data.take img) == f
  | _ => true
/-- The pound goes to the store queue in program order. -/
def Ctx.release (x : Ctx) : Ctx := { x with sq := x.sq ++ x.pound, pound := [] }
/-- The released stores are tested for watchpoints, each once (R401, R418), but for those with a piece not yet translated. The first that
matches is a completion stop, with the stores after it held; a later one that matches is tested again when it is performed, after the
resumption (R403). -/
def State.storeWatch (s : State) (n : CoreN) (c : CtxN) (rel : List Entry) : State :=
  if !(s.ctx n c).dbg then s
  else
  let hit (e : Entry) : Bool := e.kind.isWrite && !e.wpDone && !e.unknown && (s.watchHit n c true false e.pieces).isSome
  let first := rel.find? hit
  let tested (q : Entry) : Bool := rel.any fun e => e.seq = q.seq && e.kind.isWrite && !e.unknown && (!hit e || first = some e)
  let x := s.ctx n c
  let s := s.setCtx n c { x with sq := x.sq.map fun q => if tested q then { q with wpDone := true } else q }
  match first with
  | none => s
  | some e =>
    let s := match s.watchHit n c true false e.pieces with
      | some (i, ptr) => s.complete n c e 0x0D i 1 ptr
      | none => s
    s.setCtx n c { s.ctx n c with sqHold := some (e.seq + 1) }

/-! ### Retirement (R390) -/

/-- Results in flight landed, to see the signatures as they will stand. -/
def Ctx.allLanded (x : Ctx) : Arch := ((sortPend x.pend).foldl Ctx.land1 x).a
/-- Accumulators written in the interval whose signatures disagree (R179). -/
def Ctx.sigBad (x : Ctx) : Bool :=
  let a := x.allLanded
  (List.range 4).any fun n => bitAt x.wrAcc n && mget 0 a.sgp n != mget 0 a.sgs n
/-- Accumulators that fail the bound test (R167). -/
def Ctx.bndFails (x : Ctx) : BitVec 4 :=
  (List.range 4).foldl (fun m n =>
    if bitAt x.wrBnd n && !bndPass x.a.ev n x.a.bthr then m ||| (1 <<< n) else m) 0
/-- BESC with a failing set. -/
def bescFail (w : Word) (f : BitVec 4) : Word := putFld w 4 4 f.toNat
/-- A stop at the retirement of the bundle a context is at. -/
def State.retireStop (s : State) (n : CoreN) (c : CtxN) (code : Nat) (arg : Word) : State :=
  s.hold n c ⟨code, 0, 1, arg, (s.ctx n c).a.pc, 7, (s.ctx n c).a.rep.toNat, 0⟩
/-- The pound leaves, FIFO heads are committed, the retirement is counted and reported. The event table gives CKPT no ARG (R211): it is the
number of retired checkpoints not reported before (log entry 85). -/
def State.retireOk (s : State) (n : CoreN) (c : CtxN) (impl : Bool) : State :=
  let x := s.ctx n c
  let esc := bitAt x.a.besc 0
  let rel := x.pound
  let clean := x.wrAcc ≠ 0 && !x.stepCmp
  let trans := x.stepCmp && !x.scSettled
  let ck := (x.ckCount + 1) % 256
  let x' := { x.release with
    a := { x.a with besc := putFld x.a.besc 0 1 0 }, stepCmp := false, scSettled := false, bndStop := false, ckCount := ck, wdCnt := 0
    implAt := none, overflowed := false }
  let s := (s.setCtx n c x').setCore n ((s.core n).fifoRetire c)
  let s := if clean then s.setCreg (verReg n 0x18) (s.creg (verReg n 0x18) + 1) else s
  let s := if trans then s.satAdd (verReg n 0x10) 16 16 1 else s
  let s := if ck = 0 then s.postEvt n c.toNat 4 256 else s
  let s := s.traceIf n c 2 2 0 (sopName 7 0 x.a.pc) (putFld (putFld 0 0 1 (if impl then 1 else 0)) 1 1 (if esc then 1 else 0))
  let s := (s.count n c 5 1).count n c 0x0B rel.length
  (if impl then s.count n c 8 1 else s).storeWatch n c rel
/-- The bound test with escalation (R167, R169); a test that is repeated after a stop does not re-execute (R171). Whether an escalated
re-execution that follows a step-compare replay is step-compared as well, R180 does not say: it is (log entry 84). -/
def State.retireBounds (s : State) (n : CoreN) (c : CtxN) (impl : Bool) : State × Bool :=
  let x := s.ctx n c
  let f := x.bndFails
  let x := { x with a := { x.a with besc := if x.wrBnd = 0 then x.a.besc else bescFail x.a.besc f } }
  let s := s.setCtx n c x
  if f ≠ 0 then
    if !x.bndStop && !bitAt x.a.besc 0 && (f &&& x.wr32) ≠ 0 then
      let cnt := min (fld x.a.besc 32 32 + 1) (2 ^ 32 - 1)
      let w := putFld (putFld x.a.besc 0 1 1) 32 32 cnt
      let s := (s.setCtx n c { x with ck := { x.ck with besc := w } }).count n c 7 1
      (s.rollback n c 2, false)
    else ((s.setCtx n c { x with bndStop := true }).retireStop n c 0x0A (f.setWidth 64), false)
  else if !(x.pound.all Entry.refoldOk) then (s.rollback n c 3, false)
  else (s.retireOk n c impl, true)
/-- Retirement of the interval that a checkpoint bundle ends; answers whether it succeeded. An interval replayed in step-compare mode
has been compared instruction by instruction and retires with the replayed results (R180). -/
def State.retire (s : State) (n : CoreN) (c : CtxN) (impl : Bool) : State × Bool :=
  let x := s.ctx n c
  if x.sigBad && !x.stepCmp then
    let s := s.rollback n c 1
    (s.setCtx n c { s.ctx n c with stepCmp := true, scSettled := false }, false)
  else
    let x' := if bitAt x.a.besc 0 then x.escRound.escDone else x
    (s.setCtx n c x').retireBounds n c impl

end Sys2Proof.Machine
end

