-- ==== Sys2Proof/Machine/Walk.lean ====
section
/-! DEFINITION. Error correction and poison at the home (R78, R79, R82); the cluster walker (R22 to R24, R29 to R32): walks, parking, fault records, invalidation, and the fills of the
instruction store (R284, R286). -/

namespace Sys2Proof.Machine

/-! ### The radix walk (R22, R23, R29) -/

/-- Outcome of a walk: the address and value of the entry that stopped it, or the translation. -/
inductive WalkRes where
  | park (epa : Nat) (ev : Word)
  | malformed (epa : Nat) (ev : Word)
  | denied (epa : Nat) (ev : Word)
  | decode (epa : Nat) (ev : Word)
  | ok (t : Tlb)
  deriving DecidableEq, Repr

/-- Size of a leaf at a level, if its PS code is defined there. -/
def leafSize (level ps : Nat) : Option Nat :=
  match level, ps with
  | 1, 0 => some 0x1000
  | 1, 1 => some 0x10000
  | 2, 0 => some 0x200000
  | 2, 1 => some 0x2000000
  | 3, 0 => some 0x40000000
  | _, _ => none
/-- A leaf as it is found: its entry's address and value and its size. -/
inductive LeafRes where
  | park (epa : Nat) (ev : Word)
  | malformed (epa : Nat) (ev : Word)
  | leaf (epa : Nat) (ev : Word) (size : Nat)
  deriving DecidableEq, Repr
/-- The walk from the table at `base` of `level` down to a leaf. A root outside HBM is malformed before an entry is read, with the address
its entry would have and EVAL 0; a lower table outside HBM, at the descriptor that names it (log entry 61). -/
def walkDown (s : State) (va : Nat) : Nat → Nat → LeafRes
  | 0, base => .malformed base 0
  | level + 1, base =>
    let epa := base + 8 * (va / 2 ^ (12 + 9 * level) % 512)
    if regionOf base != .hbm then .malformed epa 0
    else
      let e := s.rd64 epa
      let next := fld e 12 40 * 4096
      if !bitAt e 0 then .park epa e
      else if fld e 52 8 ≠ 0 then .malformed epa e
      else if bitAt e 1 then
        if level = 0 || regionOf next != .hbm then .malformed epa e else walkDown s va level next
      else
        match leafSize (level + 1) (fld e 7 2) with
        | none => .malformed epa e
        | some size =>
          if fld e 10 2 = 3 || next % size ≠ 0 || regionOf next == .ctl then .malformed epa e else .leaf epa e size
/-- The lines of a walk's entries are read at their home. Of a poisoned line the entry is a free value (log entry 61). -/
def State.walkLines (s : State) (va : Nat) : Nat → Nat → State
  | 0, _ => s
  | level + 1, base =>
    let epa := base + 8 * (va / 2 ^ (12 + 9 * level) % 512)
    if regionOf base != .hbm then s
    else
      let s := s.eccRead (epa / 64)
      let s := if s.poisoned epa then s.miscorrect (epa / 64) else s
      let e := s.rd64 epa
      if fld e 0 2 = 3 && fld e 52 8 = 0 && level ≠ 0 then s.walkLines va level (fld e 12 40 * 4096) else s
/-- A leaf's permissions against a need. -/
def Need.lacks (q : Need) (rd w x : Bool) : Bool := (q.rd && !rd) || (q.w && !w) || (q.x && !x)
/-- The walker's cache takes a translation. -/
def State.tlbPut (s : State) (cl : Nat) (t : Tlb) : State :=
  let k := s.cluster cl
  s.setCluster cl { k with tlb := t :: k.tlb.filter fun u => !(u.asid == t.asid && u.vbase == t.vbase && u.size == t.size) }
/-- One walk for a piece: A and D are set in the entry at its home, and the translation is cached. A cached translation that lacks a needed
permission, or D, is not used: the tables are walked again (log entry 61). -/
def State.walk (s : State) (cl : Nat) (asid : BitVec 16) (ptroot va : Nat) (q : Need) : State × WalkRes :=
  let hit := (tlbFind (s.cluster cl).tlb asid va).bind fun t =>
    if q.lacks t.rd t.w t.x || (q.w && !t.dirty) then none else some t
  match hit with
  | some t => (s, .ok t)
  | none =>
    let s := s.walkLines va 4 ptroot
    match walkDown s va 4 ptroot with
    | .park epa e => (s, .park epa e)
    | .malformed epa e => (s, .malformed epa e)
    | .leaf epa e size =>
      let base := fld e 12 40 * 4096
      if q.lacks (bitAt e 2) (bitAt e 3) (bitAt e 4) then (s, .denied epa e)
      else if regionOf (base + va % size) == .reserved then (s, .decode epa e)
      else
        let e' := putFld (if q.w then putFld e 6 1 1 else e) 5 1 1
        let s := if e' = e || s.poisoned epa then s else s.homeWr64 epa e'
        let t : Tlb := ⟨asid, va / size * size, size, base, BitVec.ofNat 2 (fld e 10 2), bitAt e 9, bitAt e 4, bitAt e 3, bitAt e 2,
          bitAt e' 6⟩
        (s.tlbPut cl t, .ok t)
/-- Translation of an address by a cached entry. -/
def Tlb.tr (t : Tlb) (va : Nat) : Tr := ⟨t.pbase + (va - t.vbase), t.mt, t.tc, t.size, false, false⟩

/-! ### Fault records (R32) -/

/-- A record in a die's fault ring; a full ring drops it and sets OVF. -/
def State.faultRec (s : State) (d : Nat) (acc kind : Nat) (ptr : Word) (ids : Word) (epa : Nat) (ev : Word) : State :=
  let w0 := putFld (putFld (putFld (putFld 0 56 2 acc) 52 4 kind) 48 4 (fld ptr 48 4)) 0 48 (fld ptr 0 48)
  let r := s.ringPush (dieReg d 0x100010) [w0, ids, BitVec.ofNat 64 epa, ev]
  if r.2 then r.1.orCreg (dieReg d 0x100008) 2 else r.1
/-- Arm a walker monitor on a line; false where none of the 32 is free (R30). -/
def State.armWalk (s : State) (cl line : Nat) : State × Bool :=
  let k := s.cluster cl
  if k.mons.contains line then (s, true)
  else if 32 ≤ k.mons.length then (s, false)
  else (s.setCluster cl { k with mons := k.mons ++ [line] }, true)

/-! ### Pieces of a queue entry -/

/-- What a piece of an entry needs. -/
def EKind.need (k : EKind) (p : Piece) : Need :=
  match k with
  | .ld _ _ _ | .vld _ _ _ _ | .tagrd _ | .monarm _ _ _ | .tld _ _ _ _ _ _ _ _ _ _ | .tcfg | .trest _ _ | .reload _ | .pref _
  | .waitp _ _ _ _ | .susp _ _ | .cwb | .spawn _ | .mcast _ _ _ => needR
  | .atom _ _ _ _ _ _ | .ownx _ => needRW
  | .launch _ => if p.off < 64 then needR else needW
  | .st | .tst _ _ _ | .tagset _ | .arrive | .berth _ _ _ | .tsend _ _ _ _ _ | .trigger | .gssnext _ _ => needW
/-- Subcause decode of an entry whose translations are now known (chapters 13 to 15). -/
def Entry.misplaced (n : CoreN) (e : Entry) : Bool :=
  let out (f : Region → Bool) : Bool := anyIn e.pieces fun r => !f r
  let outRows (img : Nat) : Bool := e.pieces.any fun p => p.off < img && (match p.tr with | some t => !ownSpad n t.pa | none => false)
  match e.kind with
  | .tagset _ | .tagrd _ => e.pieces.any fun p => match p.tr with | some t => !tagged t.pa | none => false
  | .ownx _ => out fun r => r == .hbm || r == .llc
  | .spawn _ => out (· == .hbm)
  | .launch _ => e.pieces.any fun p => 64 ≤ p.off && (match p.tr with | some t => regionOf t.pa != .hbm | none => false)
  | .berth _ _ _ => !oneWindow ((e.pieces.head?.map (·.ptr)).getD 0) e.pieces
  | .mcast _ _ img => outRows img
  | .tld _ _ rows rlen _ _ _ _ _ mc => mc && outRows (rows * rlen)
  | .tsend _ img _ b cw =>
    let payload := e.pieces.filter fun p => p.off < img
    (b.isSome && !oneWindow ((payload.head?.map (·.ptr)).getD 0) payload) || e.pieces.any fun p =>
      match p.tr with
      | some t =>
        let g := regionOf t.pa
        g == .host || (cw == some p.off && g == .peer) || (b.isSome && p.off < img && g != .spad)
      | none => false
  | .susp c _ => c = 1 && e.pieces.any fun p => match p.tr with | some t => !isBarrier t.pa | none => false
  | _ => false
/-- A multicast write carries a sidecar only if that has turned out to lie in the own scratchpad (R363). -/
def Entry.trimSide (n : CoreN) (e : Entry) : Entry :=
  match e.kind with
  | .mcast _ _ img => { e with pieces := mcastPieces n img e.pieces }
  | _ => e
/-- Queues and the pound of a context, changed entry by entry. -/
def Ctx.mapEntries (x : Ctx) (f : Entry → Entry) : Ctx :=
  { x with lq := x.lq.map f, pound := x.pound.map f, sq := x.sq.map f, rq := x.rq.map f }
/-- The entry of this number and these pieces' offsets, changed. -/
def Ctx.onEntry (x : Ctx) (e : Entry) (f : Entry → Entry) : Ctx := x.mapEntries fun q => if q = e then f q else q
/-- The oldest entry that the walker has to serve now. -/
def Ctx.toWalk (x : Ctx) : Option Entry :=
  ((x.lq ++ x.pound ++ x.sq).filter fun e => e.unknown && !e.reported && (e.park.isNone || e.woken)).foldl (fun b e =>
    match b with
    | none => some e
    | some d => if e.seq < d.seq then some e else some d) none
/-- A cause found on the way of an access that has left its slot: the access waits for the resumption. -/
def State.stopAt (s : State) (n : CoreN) (c : CtxN) (e : Entry) (code sub cls : Nat) (arg : Word) : State :=
  let s := s.setCtx n c ((s.ctx n c).onEntry e fun q => { q with reported := true })
  s.complete n c e code sub cls arg
/-- A context that waited for its walks goes on when none is parked. -/
def Ctx.wake (x : Ctx) : Ctx :=
  if x.run = .waiting && !(x.lq ++ x.pound ++ x.sq).any (·.park.isSome) && x.fpark.isNone then { x with run := .live } else x
/-- Whether the translation of an atomic is known and does not support it (R338). -/
def Entry.unsup (e : Entry) : Bool :=
  match e.kind with
  | .atom fn ty _ _ _ _ => ((firstPa e.pieces).bind fun pa => atomMeets pa fn ty) == some true
  | _ => false
/-- The known translation of an unsupported atomic raises its trap (R338), unless its context ends; the access is gone. -/
def State.atomCheck (s : State) (n : CoreN) (c : CtxN) (e : Entry) : State :=
  match e.kind with
  | .atom fn ty _ _ _ _ =>
    match (firstPa e.pieces).bind fun pa => atomMeets pa fn ty with
    | some true =>
      let x := s.ctx n c
      let ending := match x.run with | .ending _ => true | _ => false
      let gone (l : List Pend) : List Pend := l.filter fun p => p.seq ≠ e.seq
      let x := { x with sq := x.sq.filter (· ≠ e), pend := gone x.pend, ckPend := gone x.ckPend, opened := false, done := 0 }
      if ending then s.setCtx n c { x with opened := (s.ctx n c).opened, done := (s.ctx n c).done } else
      let s := (s.setCtx n c x).atomUnsup n c e.pc e.k ((e.pieces.head?.map (·.ptr)).getD 0)
      if (s.ctx n c).held then s.setCtx n c { s.ctx n c with opened := true, done := 0x3F } else s
    | _ => s
  | _ => s

/-! ### Own stores (R100) -/

/-- Stores that forward their bytes. -/
def Entry.forwards (e : Entry) : Bool :=
  match e.kind with | .st | .tst _ _ _ | .tsend _ _ _ _ _ | .mcast _ _ _ => true | _ => false
/-- A multicast write, whose pieces are what it reads: it writes the same window offsets in each target (R57, R123). -/
def Entry.isMcast (e : Entry) : Bool := match e.kind with | .mcast _ _ _ => true | _ => false
/-- Where an entry has the bytes of a piece. -/
def Entry.places (e : Entry) (t : Tr) : List Nat :=
  match e.kind with
  | .mcast mask _ _ =>
    ((List.range 64).filter (bitAt mask)).map fun j => spadBase (64 * (spadCore t.pa / 64) + j) + t.pa % 0x80000
  | _ => [t.pa]
/-- Own entries before a place in program order, the latest first. -/
def Ctx.ownBefore (x : Ctx) (seq : Nat) : List Entry :=
  ((x.rq ++ x.sq ++ x.pound).filter fun e => e.seq < seq).foldr (fun e l =>
    (l.takeWhile fun q => e.seq < q.seq) ++ [e] ++ (l.dropWhile fun q => e.seq < q.seq)) []
/-- The byte an entry writes at an address: by its physical address, or by the virtual one while its translation is being made
again (R128). -/
def Entry.byteAt (e : Entry) (pa va : Nat) : Option Byte :=
  let byVa (p : Piece) : Option Nat :=
    if !e.isMcast && fld p.ptr 0 48 ≤ va && va < fld p.ptr 0 48 + p.len then some (p.off + (va - fld p.ptr 0 48)) else none
  let hit (p : Piece) : Option Nat :=
    match p.tr with
    | some t =>
      if t.marked && !e.isMcast then byVa p
      else (e.places t).findSome? fun a => if a ≤ pa && pa < a + p.len then some (p.off + (pa - a)) else none
    | none => byVa p
  (e.pieces.filterMap hit).getLast?.bind fun o => e.data[o]?
/-- Latest own byte at an address. -/
def ownByte (l : List Entry) (pa va : Nat) : Option Byte := l.findSome? fun e => if e.forwards then e.byteAt pa va else none
/-- Own entries that wait for their translation to be made again. -/
def Entry.lostTr (e : Entry) : Bool := e.pieces.any fun p => match p.tr with | some t => t.marked | none => false
/-- Whether a piece of a load reads only bytes of own stores that wait for their translation: it is then forwarded from them,
although the physical granule is not known (R128; log entry 57). -/
def Ctx.forwarded (x : Ctx) (e : Entry) (p : Piece) : Bool :=
  let own := (x.ownBefore e.seq).filter Entry.lostTr
  (match e.kind with | .ld _ _ _ | .vld _ _ _ _ | .tld _ _ _ _ _ _ _ _ _ _ => true | _ => false)
    && (List.range p.len).all fun j => (ownByte own (2 ^ 52) (fld p.ptr 0 48 + j)).isSome
/-- The translation of such a piece: outside the address space. -/
def fwdTr (va : Nat) : Tr := ⟨2 ^ 52 + va, 2, false, 0, true, false⟩

/-- PAGE_WALK for one piece of an entry (R29, R30). The spec does not say whether the pieces of one access are walked together, nor whether
those that are known are performed before the others: the model walks them one after another and performs none before all are known (log
entry 73). -/
def State.walkEntry (s : State) (n : CoreN) (c : CtxN) (e : Entry) : State :=
  match e.pieces.find? (·.tr.isNone) with
  | none => s
  | some p =>
    let x := s.ctx n c
    let cl := clusterOf n
    let va := fld p.ptr 0 48
    let q := e.kind.need p
    let ids := idBits n c.toNat x.asid
    let r := s.walk cl x.asid x.ptroot va q
    let fault (s : State) (kind epa : Nat) (ev : Word) : State := s.faultRec (dieOf n) q.acc kind p.ptr ids epa ev
    match r.2 with
    | .ok t =>
      let e' := Entry.trimSide n { e with
        pieces := e.pieces.map fun u => if u = p then { u with tr := some (t.tr va) } else u
        park := none, woken := false, unmon := false }
      if !e'.unknown && e'.misplaced n then
        if x.held then r.1
        else (r.1.stopAt n c e 0x10 2 2 p.ptr).permRec n c 2 q.acc p.ptr ((firstPa e'.pieces).getD 0)
      else
        -- while a stop is held the trap of an unsupported atomic is left for later: the walk is made again (R403)
        if x.held && !e'.unknown && e'.unsup then r.1
        else
          let s := r.1.setCtx n c (((r.1.ctx n c).onEntry e fun _ => e').wake)
          if e'.unknown then s else s.atomCheck n c e'
    | .park epa ev =>
      let a := r.1.armWalk cl (epa / 64)
      if e.park.isNone && x.forwarded e p then
        let e' := { e with pieces := e.pieces.map fun u => if u = p then { u with tr := some (fwdTr va) } else u }
        s.setCtx n c (x.onEntry e fun _ => e')
      else if a.2 then
        let first := e.park.isNone
        let s := if first then fault a.1 0 epa ev else a.1
        let s := s.setCtx n c ((s.ctx n c).onEntry e fun q =>
          { q with park := some (epa / 64), was := some (epa / 64), woken := false })
        if first && x.run = .live then s.hold n c ⟨4, 0, 0, p.ptr, e.pc, e.slotNo, e.k, 0⟩ else s
      else if x.held then r.1
      else (fault a.1 1 epa ev).stopAt n c e 4 1 1 p.ptr
    | .malformed epa ev => if x.held then r.1 else (fault r.1 2 epa ev).stopAt n c e 4 2 1 p.ptr
    | .denied epa ev => if x.held then r.1 else (fault r.1 3 epa ev).stopAt n c e 0x10 0 2 p.ptr
    | .decode epa ev => if x.held then r.1 else (fault r.1 4 epa ev).stopAt n c e 0x10 2 2 p.ptr
/-- PAGE_WALK: the walker serves the oldest untranslated piece of the context in focus. -/
def execPageWalk (s : State) : Out :=
  let n := s.foc.core
  let c := s.foc.ctx
  match (s.ctx n c).toWalk with
  | some e => .next (s.walkEntry n c e)
  | none => .next s
/-- PARK_WAKE: a write to the line wakes what is parked on it (R30); each walks again in a later step. -/
def execParkWake (cl : ClusterN) (line : PAddr) (s : State) : Out :=
  if (s.cluster cl.toNat).mons.contains (line.toNat / 64) then .next (s.wakeLine (line.toNat / 64)) else .next s

/-! ### Invalidation (R31, R127) -/

/-- What an invalidation covers. -/
def invCovers (op : BitVec 3) (asid : BitVec 16) (vpage : Nat) (a : BitVec 16) (vbase size : Nat) : Bool :=
  op == 3 || (a == asid && (op == 2 || (op == 1 && vbase ≤ vpage * 4096 && vpage * 4096 < vbase + size)))
/-- Whether an invalidation covers the walker's translation of a context's piece: the leaf that gave it. -/
def invPiece (x : Ctx) (op : BitVec 3) (asid : BitVec 16) (vpage : Nat) (p : Piece) : Bool :=
  match p.tr with
  | some t => t.leaf ≠ 0 && invCovers op asid vpage x.asid (fld p.ptr 0 48 / t.leaf * t.leaf) t.leaf
  | none => false
/-- Mark the covered stores of a context that have not left (R127). -/
def markCtx (op : BitVec 3) (asid : BitVec 16) (vpage : Nat) (x : Ctx) : Ctx :=
  let g (p : Piece) : Piece :=
    if invPiece x op asid vpage p then { p with tr := p.tr.map fun t => { t with marked := true } } else p
  let f (e : Entry) : Entry := if e.left then e else { e with pieces := e.pieces.map g }
  { x with pound := x.pound.map f, sq := x.sq.map f, rq := x.rq.map f }
/-- WALKINV on a die: caches drop what it covers, stores are marked, BUSY is set until it is complete. -/
def State.walkinv (s : State) (d : Nat) (op : BitVec 3) (asid : BitVec 16) (vpage : Nat) : State :=
  let s1 := s.ctxs.foldl (fun t kv =>
    let n := coreNo (kv.1 / 4)
    if dieOf n = d then { t with ctxs := mset .zero t.ctxs kv.1 (markCtx op asid vpage kv.2) } else t) s
  let s2 := s1.clusters.foldl (fun t kv =>
    if kv.1 / 4 = d then
      t.setCluster kv.1 { kv.2 with tlb := kv.2.tlb.filter fun u => !invCovers op asid vpage u.asid u.vbase u.size }
    else t) s1
  let s3 := s2.setDie d { s2.die d with invs := (s2.die d).invs ++ [(op, asid, vpage)] }
  s3.orCreg (dieReg d 0x100008) 1
def execWalkinvPage (d : DieN) (asid : BitVec 16) (vpage : BitVec 36) (s : State) : Out :=
  .next (s.walkinv d.toNat 1 asid vpage.toNat)
def execWalkinvAsid (d : DieN) (asid : BitVec 16) (s : State) : Out := .next (s.walkinv d.toNat 2 asid 0)
def execWalkinvAll (d : DieN) (s : State) : Out := .next (s.walkinv d.toNat 3 0 0)
/-- INVALIDATION_COMPLETE: BUSY clears once every covered store that had left has been performed. -/
def execInvalidationComplete (s : State) : Out :=
  let d := dieOf s.foc.core
  let out := s.ctxs.any fun kv => dieOf (coreNo (kv.1 / 4)) = d && (kv.2.sq ++ kv.2.rq).any fun e => e.left && e.pieces.any fun p =>
    (s.die d).invs.any fun q => invPiece kv.2 q.1 q.2.1 q.2.2 p
  if out || (s.die d).invs.isEmpty then .next s
  else .next ((s.setDie d { s.die d with invs := [] }).clrCreg (dieReg d 0x100008) 1)

/-! ### Fills of the instruction store (R284, R286) -/

/-- A line enters a half of a core's store; a full half gives up a line that a free value picks (replacement is not architected). -/
def State.fillLine (s : State) (n : CoreN) (l : ILine) : State :=
  let k := s.core n
  let other := k.istore.filter fun q => !(q.half == l.half && q.asid == l.asid && q.line == l.line)
  let mine := other.filter fun q => q.half == l.half
  if mine.length < 1024 then s.setCore n { k with istore := other ++ [l] }
  else
    let f := s.free
    let out := mine[f.1.toNat % mine.length]?
    f.2.setCore n { k with istore := other.filter (fun q => some q != out) ++ [l] }
/-- Where a fetch translates: extents, then the walker. -/
inductive FetchTr where
  | bad (sub pa : Nat)
  | walk (r : WalkRes)
  | pa (pa : Nat)
  deriving DecidableEq, Repr
def needX : Need := ⟨false, false, true⟩
def State.fetchTr (s : State) (n : CoreN) (c : CtxN) (va : Nat) : State × FetchTr :=
  let x := s.ctx n c
  match trExt x.ext x.lw n va 64 needX with
  | .hit t _ => (s, .pa t.pa)
  | .denied sub pa => (s, .bad sub pa)
  | .miss =>
    let r := s.walk (clusterOf n) x.asid x.ptroot va needX
    match r.2 with
    | .ok t => (r.1, .pa (t.tr va).pa)
    | w => (r.1, .walk w)
/-- Bytes of a line at its home. -/
def State.lineAt (s : State) (pa : Nat) : VReg := BitVec.ofNat 512 (leNat (s.rdBytes (pa / 64 * 64) 64))
/-- Whether the bank that a line lies in is being switched: the access is held (R53). -/
def State.bankShut (s : State) (pa : Nat) : Bool := regionOf pa == .spad && bankBusy (s.core (coreNo (spadCore pa))) (spadBank pa)
/-- Whether a line can be read at its home as an instruction line. -/
def State.fetchable (s : State) (n : CoreN) (pa : Nat) : Bool :=
  populated s (dieOf n) pa && regionOf pa != .ctl && !(regionOf pa == .spad && bankMode (s.core (coreNo (spadCore pa))) (spadBank pa) == 2)
/-- The fill of a fetch miss, or its fault. A fetch carries no key: TC of its translation is not looked at (log entry 65). -/
def State.fetchFill (s : State) (n : CoreN) (c : CtxN) (line : Nat) : State :=
  let x := s.ctx n c
  let ptr : Word := BitVec.ofNat 64 (64 * line)
  let q (code sub cls : Nat) : Cause := ⟨code, sub, cls, ptr, x.a.pc, 7, x.a.rep.toNat, 0⟩
  let ids := idBits n c.toNat x.asid
  let r := s.fetchTr n c (64 * line)
  match r.2 with
  | .bad sub pa => (r.1.hold n c (q 0x10 sub 2)).permRec n c sub 3 ptr pa
  | .pa pa =>
    if r.1.bankShut pa then r.1
    else if !s.fetchable n pa then (r.1.hold n c (q 0x10 2 2)).permRec n c 2 3 ptr pa
    else
      let s := r.1.eccRead (pa / 64)
      if s.poisoned pa then s.hold n c (q 6 0 1)
      else
        let s := (s.l2Touch pa 0 false).fillLine n ⟨(s.core n).fh, x.asid, line, s.lineAt pa⟩
        s.setCtx n c ({ s.ctx n c with fetchWait := none, fpark := none, fwoken := false }.wake)
  | .walk (.park epa ev) =>
    let a := r.1.armWalk (clusterOf n) (epa / 64)
    if a.2 then
      let first := x.fpark.isNone
      let s := if first then a.1.faultRec (dieOf n) 3 0 ptr ids epa ev else a.1
      let s := s.setCtx n c { s.ctx n c with fpark := some (epa / 64), fwoken := false }
      if first && x.run = .live then s.hold n c (q 4 0 0) else s
    else (a.1.faultRec (dieOf n) 3 1 ptr ids epa ev).hold n c (q 4 1 1)
  | .walk (.malformed epa ev) => (r.1.faultRec (dieOf n) 3 2 ptr ids epa ev).hold n c (q 4 2 1)
  | .walk (.denied epa ev) => (r.1.faultRec (dieOf n) 3 3 ptr ids epa ev).hold n c (q 0x10 0 2)
  | .walk (.decode epa ev) => (r.1.faultRec (dieOf n) 3 4 ptr ids epa ev).hold n c (q 0x10 2 2)
  | .walk (.ok _) => r.1
/-- The core's oldest staging request (R286): a line that cannot be read is not staged. -/
def State.stageFill (s : State) (n : CoreN) : State :=
  match (s.core n).stage with
  | [] => s
  | (c, line) :: t =>
    let c := ctxNo c
    let s := s.setCore n { s.core n with stage := t }
    let r := s.fetchTr n c (64 * line)
    match r.2 with
    | .pa pa =>
      if r.1.bankShut pa then r.1.setCore n { r.1.core n with stage := (c.toNat, line) :: t }
      else
        let s := r.1.eccRead (pa / 64)
        if s.fetchable n pa && !s.poisoned pa then
          (s.l2Touch pa 0 false).fillLine n ⟨!(s.core n).fh, (s.ctx n c).asid, line, s.lineAt pa⟩
        else s
    | _ => r.1
/-- INSTRUCTION_FETCH_FILL: the fetch miss of the context in focus; with none, the core's oldest staging request. -/
def execInstructionFetchFill (s : State) : Out :=
  let n := s.foc.core
  let c := s.foc.ctx
  let x := s.ctx n c
  match x.fetchWait with
  | some line => if !(x.run == .live || x.run == .waiting) || (x.fpark.isSome && !x.fwoken) then .next s else .next (s.fetchFill n c line)
  | none => .next (s.stageFill n)

end Sys2Proof.Machine
end

