-- ==== Sys2Proof/Machine/Home.lean ====
section
/-! DEFINITION. What happens at the home of an access: memory tags (R83 to R86), ownership (R88, R90, R91),
the banks (R48, R50 to R52, R57), and the core local cache (R49, R107, R108). -/

namespace Sys2Proof.Machine

/-! ### Tags (R83, R85) -/

/-- Tag and history after a tag write. -/
def tagPut (g : BitVec 16) (new : BitVec 4) : BitVec 16 :=
  if g.extractLsb' 0 4 == new then g else (g.extractLsb' 0 12) ++ new
def State.granOf (s : State) (pa : Nat) : BitVec 16 := mget 0 s.gran (pa / 32)
/-- Granules of [pa, pa + len). -/
def granules (pa len : Nat) : List Nat :=
  if len = 0 then [] else (List.range ((pa + len - 1) / 32 - pa / 32 + 1)).map (· + pa / 32)

/-! ### Ownership (R88, R90) -/

/-- Bytes of an ownership entry's page. -/
def ownSize (w0 : Word) : Nat := match fld w0 0 2 with | 0 => 0x1000 | 1 => 0x10000 | _ => 0x200000
/-- Base of an ownership entry's page, which is aligned to its size: bits of PBASE below the size are not looked at (log entry 64). -/
def ownBase (w0 : Word) : Nat := fld w0 12 40 * 4096 / ownSize w0 * ownSize w0
/-- Keys of the entries of a die's block whose STATE is 01. -/
def State.owned (s : State) (d : Nat) : List Nat :=
  let lo := ownReg d 0 0
  (s.cregs.filter fun kv => lo ≤ kv.1 && kv.1 < lo + 0x100000 && kv.1 % 16 = 8 && fld kv.2 0 2 = 1).map (·.1 - 8)
/-- The entry whose page holds an address: the address of its word 0. -/
def State.ownerAt (s : State) (pa : Nat) : Option Nat :=
  (s.owned (homeDie pa)).find? fun e =>
    let w := s.creg e
    ownBase w ≤ pa && pa < ownBase w + ownSize w
def State.ownerOf (s : State) (e : Nat) : BitVec 16 := (s.creg (e + 8)).extractLsb' 32 16
/-- The entries that overlap a range. -/
def State.ownOver (s : State) (pa len : Nat) : List Nat :=
  (s.owned (homeDie pa)).filter fun e =>
    let w := s.creg e
    ownBase w < pa + len && pa < ownBase w + ownSize w

/-! ### Who an access is made for -/

/-- What the home checks an access against, and how a refusal is recorded. -/
structure Actor where
  die : Nat
  tagpol : Nat
  ownid : Option (BitVec 16)
  viol : Viol
def Ctx.actor (x : Ctx) (n : CoreN) (c : CtxN) : Actor :=
  ⟨dieOf n, x.tagpol, some x.ownid, ⟨0, 0, 0, 0, 0, 0, idBits n c.toNat x.asid, 0, 0, 0, 0⟩⟩
/-- What the home says of a piece. -/
inductive HomeRes where
  | ok
  | decode
  | poison
  | report (v : Nat × BitVec 16)
  | tag (v : Nat × BitVec 16)
  | owner (pa : Nat) (o : BitVec 16)
  deriving DecidableEq, Repr
/-- R84, R86, R90, R79 for a piece; a tag check against given tags. -/
def State.homeChk (s : State) (a : Actor) (p : Piece) (t : Tr) (wr : Bool) (tagAt : Nat → BitVec 16) : HomeRes :=
  if !populated s a.die t.pa then .decode
  else
    let psn := s.poisoned t.pa
    let whole := wr && p.len = 64
    if psn && !whole then .poison
    else
      let key := fld p.ptr 48 4
      let bad := if t.tc && a.tagpol ≠ 2 && tagged t.pa && !psn
        then (granules t.pa p.len).find? fun g => fld (tagAt g) 0 4 ≠ key else none
      match bad with
      | some g => if a.tagpol = 1 then .report (32 * g, tagAt g) else .tag (32 * g, tagAt g)
      | none =>
        if !wr then .ok
        else match a.ownid with
          | none => .ok
          | some id =>
            match (s.ownOver t.pa p.len).find? fun e => s.ownerOf e != id with
            | some e => .owner t.pa (s.ownerOf e)
            | none => .ok
def State.homeCheck (s : State) (a : Actor) (p : Piece) (t : Tr) (wr : Bool) : HomeRes :=
  s.homeChk a p t wr fun g => mget 0 s.gran g
/-- The violation record of a refusal, or of a tag report. -/
def State.homeRec (s : State) (a : Actor) (acc : Nat) (p : Piece) (pa : Nat) (r : HomeRes) : State :=
  let v := { a.viol with acc := acc, ptr := p.ptr, pa := pa }
  match r with
  | .ok | .poison => s
  | .decode => s.violRec a.die { v with cls := 3 }
  | .report q => s.violRec a.die { v with cls := 5, tag := q.2, pa := q.1 }
  | .tag q => s.violRec a.die { v with cls := 0, tag := q.2, pa := q.1 }
  | .owner pa o => s.violRec a.die { v with cls := 1, pa := pa, owner := o.toNat, offid := ((a.ownid.getD 0)).toNat }
/-- Code, subcause and class of the cause (R398). -/
def HomeRes.cause : HomeRes → Option (Nat × Nat × Nat)
  | .ok | .report _ => none
  | .decode => some (0x10, 2, 2)
  | .poison => some (6, 0, 1)
  | .tag _ => some (0x11, 0, 2)
  | .owner _ _ => some (0x12, 0, 2)
/-- The bytes of a piece written at their home. -/
def State.homePiece (s : State) (a : Actor) (p : Piece) (t : Tr) (bs : List Byte) : State :=
  let s := if p.len = 64 then
      s.clearPoison t.pa (if t.tc && a.tagpol ≠ 2 then BitVec.ofNat 4 (fld p.ptr 48 4) else 0)
    else s
  (s.homeWrite t.pa bs).l2Touch t.pa t.mt true

/-! ### Banks (R48, R50 to R53) -/

/-- Core and bank of a scratchpad address. -/
def spadAt (pa : Nat) : CoreN × Nat := (coreNo (spadCore pa), spadBank pa)
def State.fifoMode (s : State) (pa : Nat) : Bool :=
  regionOf pa == .spad && bankMode (s.core (spadAt pa).1) (spadAt pa).2 == 2
def fifoCap (k : Core) (b : Nat) : Nat := 32768 / fifoEsize k b
/-- Whether an access may reach a bank now: a switching bank holds all but the stores its core issued before the switch. -/
def State.bankOpen (s : State) (n : CoreN) (c : CtxN) (seq : Nat) (store : Bool) (pa : Nat) : Bool :=
  if regionOf pa != .spad then true
  else
    let k := s.core (spadAt pa).1
    let b := (spadAt pa).2
    !bankBusy k b || (store && n = (spadAt pa).1 && seq < mget 0 k.bankSince (4 * b + c.toNat))

/-! ### The core local cache (R49, R107, R108) -/

/-- Ways: banks in cache mode. -/
def Core.ways (k : Core) : Nat := ((List.range 16).filter fun b => bankMode k b = 1).length
/-- Whether an access of a memory type to an address may use the cache. -/
def cacheable (t : Tr) : Bool :=
  t.mt = 0 && (match regionOf t.pa with | .hbm | .llc | .host | .peer => true | _ => false)
/-- A line of the local cache that is poisoned (R79, R80). -/
def Core.badLine (k : Core) (pa : Nat) : Bool := k.cpoison.contains (pa / 64) && (k.cached pa).isSome
/-- Bytes of a line from offset `o` on. -/
def lineBytes (v : VReg) (o len : Nat) : List Byte := (List.range len).map fun i => v.extractLsb' (8 * (o + i)) 8
/-- Superblocks present in a set. -/
def Core.sbsIn (k : Core) (set : Nat) : List Nat :=
  k.cache.foldl (fun l kv => let b := kv.1 / 4; if b % 128 = set && !l.contains b then l ++ [b] else l) []
/-- A load miss fills its line, if a way can be had (R49, R108); a free value picks the superblock that goes (replacement is not
architected). -/
def State.cacheFill (s : State) (n : CoreN) (pa : Nat) : State :=
  let k := s.core n
  let b := pa / 256
  let here := k.sbsIn (b % 128)
  let put (s : State) (k : Core) : State := s.setCore n { k with
    cache := mput k.cache (pa / 64) (s.lineAt pa), cpoison := k.cpoison.filter (· ≠ pa / 64) }
  if k.ways = 0 then s
  else if here.contains b || here.length < k.ways then put s k
  else
    let held := (s.heldLines n).map (· / 4)
    let out := here.filter fun x => !held.contains x
    if out.isEmpty then s
    else
      let f := s.free
      let v := out.getD (f.1.toNat % out.length) 0
      put f.2 { k with cache := k.cache.filter fun l => l.1 / 4 ≠ v }
/-! ### Own tag writes (R87) -/

/-- The tag of a granule as the context sees it: its own tag writes before the access (R87). -/
def ownGran (l : List Entry) (g : BitVec 16) (gran va : Nat) : BitVec 16 :=
  l.foldr (fun e g =>
    match e.kind with
    | .tagset new =>
      if e.pieces.any fun p => match p.tr with
        | some t => if t.marked then fld p.ptr 0 48 / 32 = va / 32 else t.pa / 32 = gran
        | none => fld p.ptr 0 48 / 32 = va / 32
      then tagPut g new else g
    | _ => g) g

end Sys2Proof.Machine
end

