-- ==== Sys2Proof/Machine/DistBase.lean ====
section
/-! DEFINITION. The data of the work distributor: time, queues and their counters, the decision log, leases, records waiting and
ready, launch instances and the trigger count (chapter 09, R33, R192, R194). -/

namespace Sys2Proof.Machine

/-! ### Time, queues, counters (R212, R213, R235) -/

/-- Core cycle count of a die: that of its most advanced core. -/
def State.dieNow (s : State) (d : Nat) : Nat :=
  s.cores.foldl (fun m kv => if kv.1 / 256 = d then max m kv.2.cyc.toNat else m) 0
def State.qtab (s : State) (q : Nat) : Word := s.creg (dieReg (q / 512) (0x310000 + 8 * (q % 512)))
/-- Address of a queue's control block. -/
def State.qcb (s : State) (q : Nat) : Nat := fld (s.qtab q) 8 44 * 256
/-- A queue's AGEQ, WDPER and WDGRACE, as its last wake found them (R213). -/
def State.qcfg (s : State) (q : Nat) : Word := mget 0 (s.die (q / 512)).qcfg q
/-- Whether a queue's records are placed: the queue exists and its STATE is enabled. -/
def State.qOpen (s : State) (q : Nat) : Bool := bitAt (s.qtab q) 0 && fld (s.rd64 (s.qcb q + 88)) 0 2 = 1
/-- The harts of a die run (R210); with RUN 0 they do not (log entry 100). -/
def State.hartsRun (s : State) (d : Nat) : Bool :=
  let w := s.creg (dieReg d 0x300000)
  bitAt w 0 && !bitAt w 2
/-- They write memory and other dies' registers: while a write of theirs waits at a full mailbox, no later one goes ahead of it (R207; log
entry 74). -/
def State.hartsFree (s : State) (d : Nat) : Bool := s.hartsRun d && (s.die d).outbox.isEmpty
/-- They make new decisions: once a stop is requested, they only finish those they are making. -/
def State.hartsGo (s : State) (d : Nat) : Bool := s.hartsFree d && !bitAt (s.creg (dieReg d 0x300000)) 1

/-- Count an event of a queue, saturating. -/
def State.qPut (s : State) (q i by' : Nat) : State :=
  let pa := s.qcb q + 128 + 8 * i
  let s := s.unitGet pa 8
  s.homeWr64 pa (BitVec.ofNat 64 (min ((s.rd64 pa).toNat + by') (2 ^ 64 - 1)))
/-- The harts of the serving die count an event of a queue; what happens while they stand is counted when they go on (R210, R235). -/
def State.qCount (s : State) (q i by' : Nat) : State :=
  if !bitAt (s.qtab q) 0 then s
  else if s.hartsFree (q / 512) then s.qPut q i by'
  else s.setDie (q / 512) { s.die (q / 512) with owed := (s.die (q / 512)).owed ++ [(q, i, by')] }

/-- The lines that a distributor watches. A queue's control line stays watched until the distributor has acted on its being disabled. -/
def State.watches (s : State) (d : Nat) : List Watch :=
  let qs := ((List.range 512).map (· + 512 * d)).filter fun q =>
    bitAt (s.qtab q) 0 && (fld (s.rd64 (s.qcb q + 8)) 0 2 ≠ 0 || fld (s.rd64 (s.qcb q + 88)) 0 2 ≠ 0)
  let waits (q : Nat) : Bool := bitAt (s.rd64 (s.qcb q + 8)) 0 && (s.rd64 (s.qcb q + 64)).toNat < (s.rd64 (s.qcb q)).toNat
  qs.map .queue ++ (qs.filter waits).map .entry
    ++ ((s.die d).waitl.filter fun h => 2 ≤ fld (s.rd64 h.rpa) 56 4).map fun h => .rec' h.rpa
/-- DISTSTAT.POLLED. -/
def State.polled (s : State) (d : Nat) : Nat := (s.watches d).length - 256
/-- The 256 monitors follow the lines to be watched: a free one goes to the line that has been polled longest (R208). -/
def Die.rearm (k : Die) (ws : List Watch) : Die :=
  let mons := k.mons.filter ws.contains
  let polls := k.polls.filter ws.contains ++ ws.filter fun w => !mons.contains w && !k.polls.contains w
  { k with mons := mons ++ polls.take (256 - mons.length), polls := polls.drop (256 - mons.length) }
def State.rearm (s : State) (d : Nat) : State := s.setDie d ((s.die d).rearm (s.watches d))

/-! ### Mailboxes (R207) -/

def State.mapDie (s : State) (d : Nat) (f : Die → Die) : State := s.setDie d (f (s.die d))
/-- Whether a write of a die's harts waits at another die's full mailbox. -/
def State.outWaits (s : State) (src dst : Nat) : Bool := (s.die src).outbox.any fun o => o.1 = dst
/-- A hart's word for another die's mailbox, which holds 1024: it waits where the mailbox is full, and later writes of its die to that die
behind it. -/
def State.mailWord (s : State) (src dst : Nat) (w : Word) : State :=
  if 1024 ≤ (s.die dst).mbox.length || s.outWaits src dst then
    s.mapDie src fun k => { k with outbox := k.outbox ++ [(dst, dieReg dst 0x300038, w)] }
  else s.mapDie dst fun k => { k with mbox := k.mbox ++ [w] }

/-! ### The decision log (R232 to R234) -/

/-- A decision to be logged. -/
structure Decision where
  kind : Nat
  reason : Nat
  rpa : Nat
  q : Nat
  n : Option (Nat × Nat)
  aux : Nat
def Decision.words (v : Decision) (now : Nat) : List Word :=
  let id := match v.n with | some (n, c) => idBits (coreNo n) c 0 | none => 0
  [BitVec.ofNat 64 now, putFld (putFld (putFld 0 60 4 v.kind) 56 4 v.reason) 0 52 v.rpa, putFld id 52 12 v.q,
    putFld 0 32 32 v.aux]
def State.logFull (s : State) (d : Nat) : Bool :=
  let size := 2 ^ (fld (s.creg (dieReg d 0x300020)) 0 4 + 4)
  (fld (s.creg (dieReg d 0x300028)) 0 20 + 1) % size = fld (s.creg (dieReg d 0x300030)) 0 20 % size
def State.logDrop (s : State) (d : Nat) : Bool := bitAt (s.creg (dieReg d 0x300000)) 3
/-- Whether the distributor may take an action that it logs: its harts run, and nothing of theirs waits to be written (R207, R210). -/
def State.canLog (s : State) (d : Nat) : Bool := s.hartsFree d && (s.logDrop d || ((s.die d).logq.isEmpty && !s.logFull d))
/-- A decision's record; a full log with LOGDROP drops it. -/
def State.logNow (s : State) (d : Nat) (v : Decision) : State := (s.ringPush (dieReg d 0x300020) (v.words (s.dieNow d))).1
/-- The record of an event that has already happened: kept until the harts write it, as there is room. -/
def State.logLate (s : State) (d : Nat) (v : Decision) : State :=
  if s.canLog d then s.logNow d v
  else s.setDie d { s.die d with logq := (s.die d).logq ++ [v.words (s.dieNow d)] }
/-- Kept records are written as space appears. -/
def State.logFlush (s : State) (d : Nat) : Nat → State
  | 0 => s
  | fuel + 1 =>
    match (s.die d).logq with
    | [] => s
    | w :: t =>
      if s.logFull d && !s.logDrop d then s
      else State.logFlush ((s.ringPush (dieReg d 0x300020) w).1.setDie d { s.die d with logq := t }) d fuel

/-! ### Leases (R33, R39) -/

/-- Home die of a range's lease. -/
def leaseDie (pa : Nat) : Nat := homeDie pa
def Lease.over (l : Lease) (base len : Nat) : Bool := l.base < base + len && base < l.base + l.len
/-- Whether a live lease overlaps a range. -/
def State.leased (s : State) (d base len : Nat) : Bool := (s.die d).leases.any fun l => l.over base len
/-- The lowest free number of a list of used ones. -/
def freeNum (used : List Nat) : Nat → Nat → Option Nat
  | 0, _ => none
  | fuel + 1, k => if used.contains k then freeNum used fuel (k + 1) else some k
/-- Take or join the lease of a range for a record: a live lease of the same range, else the lowest free number (log entry 62). -/
def State.takeLease (s : State) (base len rpa : Nat) : State × Option Nat :=
  let d := leaseDie base
  let k := s.die d
  match k.leases.find? fun l => l.base = base && l.len = len with
  | some l =>
    let f (m : Lease) : Lease := if m.num = l.num && !m.holders.contains rpa then { m with holders := m.holders ++ [rpa] } else m
    (s.setDie d { k with leases := k.leases.map f }, some l.num)
  | none =>
    match freeNum (k.leases.map (·.num)) (min 65535 (k.leases.length + 1)) 1 with
    | none => (s, none)
    | some i => (s.setDie d { k with leases := k.leases ++ [⟨i, base, len, [rpa]⟩] }, some i)
/-- LEASESTAT.BUSY clears once no lease overlaps the range of the check. -/
def State.leaseSettle (s : State) (d : Nat) : State :=
  match (s.die d).check with
  | some (b, l, _) =>
    if s.leased d b l then s else (s.setDie d { s.die d with check := none }).clrCreg (dieReg d 0x100058) 1
  | none => s
/-- A record's leases end with its residency. -/
def State.dropLeases (s : State) (rpa : Nat) : State :=
  (List.range 8).foldl (fun s d =>
    let k := s.die d
    let ls := (k.leases.map fun l => { l with holders := l.holders.filter (· ≠ rpa) }).filter (!·.holders.isEmpty)
    (s.setDie d { k with leases := ls, revokes := k.revokes.filter (·.1 ≠ rpa), unasked := k.unasked.filter (· ≠ rpa) }).leaseSettle d) s

/-! ### Records in memory (R190 to R194) -/

/-- A word of a record; who reads a record brings it through the code first (`State.unitGet`). -/
def State.recWord (s : State) (rpa i : Nat) : Word := s.rd64 (rpa + 8 * i)
/-- A barrier object's address, for RCOND 1. -/
def rcondOk (code pa : Nat) : Bool :=
  match code with
  | 0 => true
  | 1 => isBarrier pa
  | 2 | 3 => regionOf pa == .hbm || regionOf pa == .llc
  | _ => false
/-- Malformed record (R190, R192). -/
def State.recBad (s : State) (rpa : Nat) : Bool :=
  let w (i : Nat) : Word := s.recWord rpa i
  let tres := fld (w 6) 16 8
  4 < fld (w 0) 60 4 || 3 < fld (w 0) 56 4 || fld (w 0) 48 8 ≠ 0 || fld (w 0) 0 2 ≠ 0
    || fld (w 2) 0 6 ≠ 0 || fld (w 3) 52 12 ≠ 0 || fld (w 3) 0 12 ≠ 0 || fld (w 4) 0 16 ≠ 0
    || fld (w 5) 52 12 ≠ 0 || fld (w 5) 4 8 ≠ 0 || fld (w 5) 0 2 ≠ 0
    || fld (w 6) 26 2 = 3 || !(tres = 0 || (32 ≤ tres && tres ≤ 68)) || fld (w 6) 13 3 ≠ 0 || fld (w 6) 5 3 ≠ 0
    || 16 < fld (w 6) 0 5 || 16 < fld (w 6) 8 5 || fld (w 7) 52 12 ≠ 0
    || !rcondOk (fld (w 0) 56 4) (fld (w 7) 0 52)
/-- A record that is about to be read, and the word that its RCOND 2 or 3 watches, come through the code (R78). -/
def State.recGet (s : State) (rpa : Nat) : State :=
  let s := s.unitGet rpa 64
  if 2 ≤ fld (s.recWord rpa 0) 56 4 && !s.recBad rpa then s.unitGet (fld (s.recWord rpa 7) 0 52) 4 else s
/-- RCOND of a record holds (R192). -/
def State.rcondMet (s : State) (rpa : Nat) : Bool :=
  let pa := fld (s.recWord rpa 7) 0 52
  let v := fld (s.recWord rpa 6) 32 32
  let now := leNat (s.rdBytes pa 4)
  match fld (s.recWord rpa 0) 56 4 with
  | 0 => true
  | 1 => fld (s.creg pa) 48 1 ≠ v % 2
  | 2 => now ≠ v
  | _ => now = v

/-! ### Launch instances (R222 to R226) -/

def Held.new (rpa q t0 : Nat) (inst : Option (Nat × Nat × Nat)) : Held :=
  ⟨rpa, q, t0, inst, none, false, [], false, none, 0, none, none, false, 0⟩
/-- Change an instance, named by its die and area. -/
def State.mapInst (s : State) (d area : Nat) (f : Inst → Inst) : State :=
  s.mapDie d fun k => { k with insts := k.insts.map fun i => if i.area = area && !i.pending then f i else i }
def Inst.mapNode (i : Inst) (m : Nat) (f : Node → Node) : Inst :=
  { i with nodes := (i.nodes.zipIdx).map fun q => if q.2 = m then f q.1 else q.1 }
/-- Queue that the decisions about an instance name (log entry 26): its first node's. -/
def Inst.queue (i : Inst) : Nat := (i.nodes.head?.map (·.q)).getD 0
/-- A node has ended: every record ended, or it never starts. -/
def Node.over (v : Node) : Bool := if v.started then v.count ≤ v.ended else v.bad
/-- Every record of a node has been counted (R140). -/
def Node.counted (v : Node) : Bool := v.started && !v.bad && v.count ≤ v.trig
/-- Predecessors of a node. -/
def Inst.predsOf (i : Inst) (v : Node) : List Node := ((i.nodes.zipIdx).filter fun q => bitAt v.preds q.2).map (·.1)
/-- A record's bytes with some fields replaced. -/
def State.nodeRec (s : State) (i : Inst) (v : Node) (k : Nat) : List Byte :=
  let w (j : Nat) : Word := s.recWord v.template j
  (List.range 8).flatMap fun j => leBytes 8 (
    if j = 0 then putFld (w 0) 60 4 0
    else if j = 4 then putFld (w 4) 32 32 (fld (w 4) 32 32 + k)
    else if j = 6 then putFld (w 6) 31 1 (if i.dbg then 1 else 0)
    else w j).toNat
/-- Requests that a die's synchronisation engine holds in its waiting list (R342): WAITPs and phase watches. -/
def State.listed (s : State) (d : Nat) : Nat :=
  (s.ctxs.foldl (fun m kv => m + (kv.2.lq.filter fun e => match e.kind with
    | .waitp _ _ l _ => l && (match firstPa e.pieces with | some pa => homeDie pa = d | none => false)
    | _ => false).length) 0)
  + (s.dies.foldl (fun m kv => m + (kv.2.waitl.filter fun h =>
      h.watch && homeDie (fld (s.recWord h.rpa 7) 0 52) = d).length) 0)
/-- A record becomes ready now. -/
def State.makeReady (s : State) (d : Nat) (h : Held) : State :=
  s.mapDie d fun k => { k with ready := k.ready ++ [{ h with t0 := s.dieNow d, tried := [], noroom := false, watch := false }] }
/-- A record of an instance has ended, as its node and the instance keep it; `bad` with a cause bit of R225, or retired. -/
def State.instMark (s : State) (inst : Option (Nat × Nat × Nat)) (bad : Option Nat) : State :=
  match inst with
  | none => s
  | some (d, area, m) => s.mapInst d area fun i =>
      let i := i.mapNode m fun v => { v with ended := v.ended + 1, bad := v.bad || bad.isSome }
      match bad with
      | some b => { i with causes := i.causes ||| (1 <<< b) }
      | none => { i with retired := i.retired + 1 }
/-- A refused record: logged, if it is not logged already (`aux` 0), and counted; a record of a launch has ended with an error. -/
def State.refuseMark (s : State) (d : Nat) (h : Held) (aux : Nat) : State :=
  let s := if aux = 0 then s else s.logLate d ⟨5, 0, h.rpa, h.q, none, aux⟩
  (s.qCount h.q 6 1).instMark h.inst (some 0)
/-- A non-resident record is taken: ready, waiting on its condition, or refused, which is answered; with no room in the log the refusal waits
(R233). A record of a launch is taken as those of a ring and of a SPAWN are (log entry 92). -/
def State.takeMark (s : State) (d : Nat) (h : Held) : State × Bool :=
  let s := s.recGet h.rpa
  let code := fld (s.recWord h.rpa 0) 56 4
  let pa := fld (s.recWord h.rpa 7) 0 52
  let no (aux : Nat) : State × Bool :=
    if s.canLog d then (s.refuseMark d h aux, true) else (s.mapDie d fun k => { k with refq := k.refq ++ [(h, aux)] }, false)
  if s.recBad h.rpa then no 1
  else if code = 1 && !bitAt (s.creg pa) 56 then no 5
  else if s.rcondMet h.rpa then (s.makeReady d h, false)
  else
    let w := code = 1 && s.listed (homeDie pa) < 4096
    (s.mapDie d fun k => { k with waitl := k.waitl ++ [{ h with watch := w, retryAt := s.dieNow d + 256 }] }, false)
/-- A node starts: its records are written and taken into their queue. -/
def State.startNode (s : State) (d : Nat) (i : Inst) (m : Nat) (v : Node) : State :=
  let s := s.mapInst d i.area fun i => i.mapNode m fun v => { v with started := true }
  (List.range v.count).foldl (fun s k =>
    let rpa := i.area + 64 * (1 + v.first + k)
    let s := s.unitGet v.template 64
    let s := s.unitPut rpa (s.nodeRec i v k)
    let sd := v.q / 512
    (s.takeMark sd (Held.new rpa v.q (s.dieNow sd) (some (d, i.area, m)))).1) s
/-- While the harts work, nodes whose predecessors have all been counted start, a dependent as long as the log takes decisions (R233); those with a
predecessor in error never do. -/
def State.startNodes (s : State) (d area : Nat) : Nat → State
  | 0 => s
  | fuel + 1 =>
    if !s.hartsFree d then s else
    match (s.die d).insts.find? fun i => i.area = area && !i.pending with
    | none => s
    | some i =>
      if bitAt i.causes 2 then s
      else match (i.nodes.zipIdx).find? fun q => !q.1.started && !q.1.bad
          && ((i.predsOf q.1).any (·.bad) || (i.predsOf q.1).all Node.counted && (q.1.preds = 0 || s.canLog (i.queue / 512))) with
        | none => s
        | some (v, m) =>
          let s := if (i.predsOf v).any (·.bad) then s.mapInst d area fun i => i.mapNode m fun v => { v with bad := true }
            else s.startNode d i m v
          State.startNodes s d area fuel
/-- Status of a DONE word (R225). -/
def doneWord (i : Inst) : Word :=
  let st := if bitAt i.causes 2 then 4 else if bitAt i.causes 1 then 3 else if bitAt i.causes 0 then 2 else 1
  putFld (putFld (putFld 0 32 32 i.retired) 8 3 i.causes.toNat) 0 8 st
/-- Instances of a die whose nodes have all ended write DONE, while the harts work and the log takes their decisions. -/
def State.endInsts (s : State) (d : Nat) : Nat → State
  | 0 => s
  | fuel + 1 =>
    if !s.hartsFree d then s else
    match (s.die d).insts.find? fun i => !i.pending && (bitAt i.causes 2 || i.nodes.all Node.over)
        && (i.nodes.all fun v => !v.started || v.count ≤ v.ended) && s.canLog (i.queue / 512) with
    | none => s
    | some i =>
      let w := doneWord i
      let s := s.mapDie d fun k => { k with insts := k.insts.filter (· ≠ i) }
      let s := s.homeWr64 i.area w
      State.endInsts (s.logNow (i.queue / 512) ⟨8, 0, i.area, i.queue, none, fld w 0 8⟩) d fuel
/-- What follows a change of an instance. -/
def State.instStep (s : State) (d area : Nat) : State := (s.startNodes d area 65).endInsts d 64
/-- A record of an instance has ended; `bad` with a cause bit of R225, or retired. -/
def State.instEnded (s : State) (inst : Option (Nat × Nat × Nat)) (bad : Option Nat) : State :=
  match inst with
  | none => s
  | some (d, area, _) => (s.instMark inst bad).instStep d area

/-! ### Refusal and admission (R192, R215, R221, R224) -/

/-- A refused record; the instance it belongs to goes on. -/
def State.refuse (s : State) (d : Nat) (h : Held) (aux : Nat) : State :=
  let s := s.refuseMark d h aux
  match h.inst with
  | none => s
  | some (e, area, _) => s.instStep e area
/-- A non-resident record is taken; where it is refused at once, its instance goes on. -/
def State.takeIn (s : State) (d : Nat) (h : Held) : State :=
  let r := s.takeMark d h
  match r.2, h.inst with
  | true, some (e, area, _) => r.1.instStep e area
  | _, _ => r.1
/-- The waiting record's condition is tested afresh. One whose barrier object is invalid is refused, now or once the log takes it (R192,
R233). -/
def State.retest (s : State) (d : Nat) (h : Held) : State :=
  let s := s.recGet h.rpa
  let s' := s.mapDie d fun k => { k with waitl := k.waitl.filter (· ≠ h) }
  let pa := fld (s.recWord h.rpa 7) 0 52
  if fld (s.recWord h.rpa 0) 56 4 = 1 && !bitAt (s.creg pa) 56 then
    if s.canLog d then s'.refuse d h 5 else s'.mapDie d fun k => { k with refq := k.refq ++ [(h, 5)] }
  else if s.rcondMet h.rpa then s'.makeReady d h else s

/-- A refusal that nothing else holds up: it waits for the log (R233). -/
def State.refuseSoon (s : State) (d : Nat) (h : Held) (aux : Nat) : State :=
  if s.canLog d then s.refuse d h aux else s.mapDie d fun k => { k with refq := k.refq ++ [(h, aux)] }
/-- Refusals that have waited, as far as the log takes them. -/
def State.refuseHeld (s : State) (d : Nat) (l : List (Held × Nat)) : State :=
  l.foldl (fun s p =>
    if s.canLog d then (s.mapDie d fun k => { k with refq := k.refq.drop 1 }).refuse d p.1 p.2 else s) s
/-- The instances of every die go on, as far as they may. -/
def State.instsGo (s : State) : State :=
  s.dies.foldl (fun (s : State) kv =>
    kv.2.insts.foldl (fun (s : State) i => if i.pending then s else s.instStep kv.1 i.area) s) s
/-- The log of a die has room, or drops, or its harts go on: kept records are written, counters raised, and what waited for the log follows. -/
def State.logRoom (s : State) (d : Nat) : State :=
  if !s.hartsFree d then s
  else
    let s := s.logFlush d 4096
    let s := (s.die d).owed.foldl (fun s p => s.qPut p.1 p.2.1 p.2.2) (s.mapDie d fun k => { k with owed := [] })
    (s.refuseHeld d (s.die d).refq).instsGo

/-! ### What SPAWN, LAUNCH and TRIGGER bring to the distributor (R139, R223, R224, R301, R302) -/

/-- The harts act on a SPAWN. -/
def State.actSpawn (s : State) (q rpa : Nat) (dbg : Bool) : State :=
  let d := q / 512
  let s := s.unitGet rpa 64
  if d ≥ 8 || !bitAt (s.qtab q) 0 then s.refuseSoon (d % 8) (Held.new rpa q 0 none) 1
  else
    let s := s.homeWr64 (rpa + 48) (putFld (s.recWord rpa 6) 31 1 (if dbg then 1 else 0))
    s.takeIn d (Held.new rpa q (s.dieNow d) none)
/-- Nodes of a body (R222). -/
def State.bodyNodes (s : State) (body : Nat) : List Node :=
  (List.range (fld (s.rd64 body) 0 7)).map fun m =>
    let w (k : Nat) : Word := s.rd64 (body + 64 * (m + 1) + 8 * k)
    ⟨fld (w 2) 52 12, fld (w 1) 0 32, fld (w 1) 32 32, fld (w 0) 6 46 * 64, fld (w 2) 0 8, w 3, false, 0, 0, false⟩
/-- SPAWN is received: the harts act on it, or will once they run again (R210), and once no write of theirs waits (R207). -/
def State.recvSpawn (s : State) (q rpa : Nat) (dbg : Bool) : State :=
  if s.hartsFree (q / 512) then s.actSpawn q rpa dbg
  else s.mapDie (q / 512) fun k => { k with inreq := k.inreq ++ [.spawn q rpa dbg] }
/-- A launch starts on the body it has pinned: the nodes without predecessors begin; with no room in the log a refusal waits (R233). -/
def State.startLaunch (s : State) (d : Nat) (i : Inst) : State :=
  let h := i.word
  let body := fld h 6 46 * 64
  let s := s.unitGet body (64 + 64 * fld (s.rd64 body) 0 7)
  let nrec := fld (s.rd64 body) 32 32
  if stackOf (i.area + 64 + 64 * nrec - 1) ≠ stackOf i.area || regionOf (i.area + 64 + 64 * nrec - 1) != .hbm then
    let q := Inst.queue { i with nodes := s.bodyNodes body }
    if !s.canLog (q / 512) then s.mapDie d fun k => { k with insts := k.insts ++ [i] } else
    let s := (s.logLate (q / 512) ⟨5, 0, i.area, q, none, 6⟩).qCount q 6 1
    s.homeWr64 i.area (putFld (putFld 0 8 1 1) 0 8 2)
  else
    let s := (s.homeWr64 (i.area + 8) (putFld 0 52 12 (fld h 52 12))).homeWr64 i.area 0
    let i := { i with nodes := s.bodyNodes body, pending := false }
    (s.mapDie d fun k => { k with insts := k.insts ++ [i] }).instStep d i.area
/-- Whether an instance of a header runs (R226). -/
def State.running (s : State) (hdr : Nat) : Bool :=
  s.dies.any fun kv => kv.2.insts.any fun i => !i.pending && i.hdr = hdr
/-- Whether a launch of a header waits already (R226). -/
def State.queued (s : State) (hdr : Nat) : Bool := s.dies.any fun kv => kv.2.insts.any fun i => i.pending && i.hdr = hdr
/-- The harts act on a LAUNCH: it pins the header word it reads, and with it the body (R222, R226). -/
def State.actLaunch (s : State) (d hdr area : Nat) (dbg : Bool) : State :=
  let s := s.unitGet hdr 64
  let i : Inst := ⟨area, hdr, dbg, [], 0, 0, true, s.rd64 hdr⟩
  if bitAt i.word 0 && (s.running hdr || s.queued hdr) then s.mapDie d fun k => { k with insts := k.insts ++ [i] }
  else s.startLaunch d i
/-- LAUNCH is received: the harts act on it, or will once they run again (R210), and once no write of theirs waits (R207). -/
def State.recvLaunch (s : State) (d hdr area : Nat) (dbg : Bool) : State :=
  if s.hartsFree d then s.actLaunch d hdr area dbg
  else s.mapDie d fun k => { k with inreq := k.inreq ++ [.launch hdr area dbg] }
/-- The placement of a resident record, at the die that serves its queue. -/
def State.placedOf (s : State) (n : CoreN) (c : CtxN) : Option Placed :=
  let x := s.ctx n c
  (s.dies.findSome? fun kv => (kv.2.placed ++ kv.2.offers).find? fun p => p.held.rpa = x.rpa && p.held.q / 512 = kv.1).orElse
    fun _ => s.dies.findSome? fun kv => (kv.2.remote.find? fun h => h.rpa = x.rpa).map fun h =>
      ⟨h, n.toNat, c.toNat, x.resno.toNat, 0, 0, 0, 4, 0, false, none⟩
/-- A record that has triggered, in the hands of every die. -/
def State.markTrig (s : State) (rpa : Nat) : State :=
  let f (h : Held) : Held := if h.rpa = rpa then { h with trig := true } else h
  let g (p : Placed) : Placed := { p with held := f p.held }
  s.dies.foldl (fun s kv => s.mapDie kv.1 fun k => { k with
    placed := k.placed.map g, offers := k.offers.map g, guests := k.guests.map g, remote := k.remote.map f }) s
/-- A record's trigger counts once for its launch, over all its residencies (R139). -/
def State.trigger (s : State) (n : CoreN) (c : CtxN) : State :=
  let x := s.ctx n c
  if s.trigHeld x.rpa then s
  else
    let r := (s.placedOf n c).bind (·.held.inst)
    let s := s.markTrig x.rpa
    match r with
    | none => s
    | some (d, area, m) =>
      (s.mapInst d area fun i => i.mapNode m fun v => { v with trig := v.trig + 1 }).instStep d area

end Sys2Proof.Machine
end

