-- ==== Sys2Proof/Machine/IssueOp.lean ====
section
/-! DEFINITION. A slot operation of a bundle: the meaning that `exec` gives it, for `BUNDLE_ISSUE` to call. -/

namespace Sys2Proof.Machine

/-- The operation of the slot in focus issues. A step without an encoding is never in a slot. -/
def issueOp (i : Instr) (s : State) : Out :=
  match i with
  | .add d a b => execAdd d a b s
  | .sub d a b => execSub d a b s
  | .mul d a b => execMul d a b s
  | .mulh d a b => execMulh d a b s
  | .mulhu d a b => execMulhu d a b s
  | .div d a b => execDiv d a b s
  | .divu d a b => execDivu d a b s
  | .rem d a b => execRem d a b s
  | .remu d a b => execRemu d a b s
  | .and d a b => execAnd d a b s
  | .or d a b => execOr d a b s
  | .xor d a b => execXor d a b s
  | .andn d a b => execAndn d a b s
  | .shl d a b => execShl d a b s
  | .shr d a b => execShr d a b s
  | .sar d a b => execSar d a b s
  | .min d a b => execMin d a b s
  | .max d a b => execMax d a b s
  | .minu d a b => execMinu d a b s
  | .maxu d a b => execMaxu d a b s
  | .clz d a => execClz d a s
  | .popc d a => execPopc d a s
  | .ext d a b w sgn => execExt d a b w sgn s
  | .sel d a b p neg => execSel d a b p neg s
  | .adds d a b uns => execAdds d a b uns s
  | .setkey d a b => execSetkey d a b s
  | .addi d a imm => execAddi d a imm s
  | .andi d a imm => execAndi d a imm s
  | .ori d a imm => execOri d a imm s
  | .xori d a imm => execXori d a imm s
  | .shli d a sh => execShli d a sh s
  | .shri d a sh => execShri d a sh s
  | .sari d a sh => execSari d a sh s
  | .movi d imm => execMovi d imm s
  | .lih d a imm => execLih d a imm s
  | .cmp p cc a b => execCmp p cc a b s
  | .cmpi p cc a imm => execCmpi p cc a imm s
  | .pand p a na b nb => execPand p a na b nb s
  | .por p a na b nb => execPor p a na b nb s
  | .pxor p a na b nb => execPxor p a na b nb s
  | .pandn p a na b nb => execPandn p a na b nb s
  | .csrr d num => execCsrr d num s
  | .csrw num a => execCsrw num a s
  | .csrs num a => execCsrs num a s
  | .csrc num a => execCsrc num a s
  | .lcw n a => execLcw n a s
  | .lcr d n => execLcr d n s
  | .br p neg off => execBr p neg off s
  | .call p neg off => execCall p neg off s
  | .jr a => execJr a s
  | .callr a => execCallr a s
  | .loopn v n => execLoopn v n s
  | .ifence a n => execIfence a n s
  | .iswapStage a n => execIswapStage a n s
  | .trap n => execTrap n s
  | .suspend c a v => execSuspend c a v s
  | .vadd o => execVadd o s
  | .vsub o => execVsub o s
  | .vmul o => execVmul o s
  | .vfma o => execVfma o s
  | .vfms o => execVfms o s
  | .vmin o => execVmin o s
  | .vmax o => execVmax o s
  | .vabs o => execVabs o s
  | .vneg o => execVneg o s
  | .vadds o => execVadds o s
  | .vsubs o => execVsubs o s
  | .vmov o => execVmov o s
  | .vmulh o => execVmulh o s
  | .vand o => execVand o s
  | .vor o => execVor o s
  | .vxor o => execVxor o s
  | .vandn o => execVandn o s
  | .vshl o => execVshl o s
  | .vshr o => execVshr o s
  | .vsar o => execVsar o s
  | .vcmp o => execVcmp o s
  | .vsel o => execVsel o s
  | .mand o => execMand o s
  | .mor o => execMor o s
  | .mxor o => execMxor o s
  | .mandn o => execMandn o s
  | .mpop o => execMpop o s
  | .vcvt o => execVcvt o s
  | .vqnt o => execVqnt o s
  | .vdqnt o => execVdqnt o s
  | .vredsum o => execVredsum o s
  | .vredmax o => execVredmax o s
  | .vredmin o => execVredmin o s
  | .vperm o => execVperm o s
  | .vbcast o => execVbcast o s
  | .vbcastScalar o => execVbcastScalar o s
  | .vlane o => execVlane o s
  | .vmovs o => execVmovs o s
  | .vmovl o => execVmovl o s
  | .vslide o => execVslide o s
  | .vzip o => execVzip o s
  | .vunzip o => execVunzip o s
  | .vrcp o => execVrcp o s
  | .vrsqrt o => execVrsqrt o s
  | .vexp2 o => execVexp2 o s
  | .vlog2 o => execVlog2 o s
  | .vtanh o => execVtanh o s
  | .vrng o => execVrng o s
  | .mma o => execMma o s
  | .mmas o => execMmas o s
  | .tadd o => execTadd o s
  | .tscl o => execTscl o s
  | .tcvt o => execTcvt o s
  | .tqnt o => execTqnt o s
  | .tcmpr o => execTcmpr o s
  | .tdcmp o => execTdcmp o s
  | .tmov o => execTmov o s
  | .mkat fmt seed sig => execMkat fmt seed sig s
  | .ld o => execLd o s
  | .st o => execSt o s
  | .vld o => execVld o s
  | .vst o => execVst o s
  | .vlds o => execVlds o s
  | .vsts o => execVsts o s
  | .vgath o => execVgath o s
  | .vscat o => execVscat o s
  | .ldfar o => execLdfar o s
  | .vldfar o => execVldfar o s
  | .qmark o => execQmark o s
  | .fence o => execFence o s
  | .atom o => execAtom o s
  | .arrive o => execArrive o s
  | .waitp o => execWaitp o s
  | .berth o => execBerth o s
  | .ownx o => execOwnx o s
  | .monarm o => execMonarm o s
  | .monwait o => execMonwait o s
  | .pref o => execPref o s
  | .cwb o => execCwb o s
  | .cinv o => execCinv o s
  | .cinvAll o => execCinvAll o s
  | .tagset o => execTagset o s
  | .tagrd o => execTagrd o s
  | .tld o => execTld o s
  | .tst o => execTst o s
  | .tcfg o => execTcfg o s
  | .tsave o => execTsave o s
  | .trest o => execTrest o s
  | .tsend o => execTsend o s
  | .trigger o => execTrigger o s
  | .spawn o => execSpawn o s
  | .launch o => execLaunch o s
  | .gssnext o => execGssnext o s
  | .sld o => execSld o s
  | .trw o => execTrw o s
  | .trr o => execTrr o s
  | .tcw o => execTcw o s
  | .tcr o => execTcr o s
  | .tzero o => execTzero o s
  | .brd o => execBrd o s
  | .bwr o => execBwr o s
  | .bchk o => execBchk o s
  | .bclr o => execBclr o s
  | .sgrd o => execSgrd o s
  | .sgclr o => execSgclr o s
  | .kwr o => execKwr o s
  | .krd o => execKrd o s
  | .ret => execRet s
  | .ifenceAll => execIfenceAll s
  | .iswap => execIswap s
  | .eret => execEret s
  | .suspendDorm => execSuspendDorm s
  | .yield => execYield s
  | .retire => execRetire s
  | .registerDoubleError _ _ _ | .arbiterServe _ _ | .verifctlWrite _ _ | .resultArrival _ _ _ | .parkWake _ _
  | .walkinvPage _ _ _ | .walkinvAsid _ _ | .walkinvAll _ | .faulttailWrite _ _ | .violtailWrite _ _
  | .leaseCheckWait _ _ | .leaseCheckRevoke _ _ | .storePerform _ _ _ _ | .loadPerform _ _ _ | .atomicPerform _ _ _ _
  | .replayRewalk _ _ _ | .replayRewalkTimer _ _ _ | .bankmodeSwitch _ _ _ _ | .bankSwitchComplete _ _
  | .llcwinResize _ _ | .llcwinResizeDone _ | .fifoPushAccept _ _ | .copy _ | .copysc _ _ | .migrate _ | .mcast _
  | .cetailWrite _ _ _ | .cestatResume _ _ | .cestatSkip _ _ | .ownershipWord0Write _ _ _
  | .ownershipWord1Write _ _ _ | .barrierObjectWrite _ _ _ | .phaseWatchRetry _ _ | .refreshRow _ _ _
  | .eccCountClear _ _ | .dispatch _ _ _ | .preEmpt _ _ _ | .force _ _ _ | .kill _ _ _ | .resume _ _ _ | .slots _ _
  | .banks _ _ | .disteventRead _ _ | .distmboxrdRead _ _ | .mboxPlace _ _ _ _ | .mboxPlaced _ _ _ _
  | .mboxNoroom _ _ _ _ | .mboxPreempt _ _ _ _ | .mboxForce _ _ _ _ | .mboxKill _ _ _ _ | .mboxEnded _ _ _ _
  | .distctlQuiesce _ _ | .distctlLoad _ _ _ | .queueWake _ | .rcondWake _ _ | .dlogtailWrite _ _ | .dbgGo _ _ _
  | .traceSessionOpen _ _ _ | .traceSessionClose _ _ _ | .spdmGetMeasurements _ | .hostWrite _ _ _ _
  | .hostRead _ _ _ _ | .hostAtomicop _ _ _ _ _ _ | .ideKeyRollover _ _ | .weatorFlit _ _ _ _ | .weatorLinkDown _
  | .towpathFlit _ _ _ | .towpathLinkDown _ | .powerOnReset _ | .stackTrained _ | .weatorLinkTrained _
  | .towpathLinkTrained _ | .trainingTimeout _ | .modidWrite _ | .pwrcapWrite _ | .powerSample _ _ | .thermalTrip _
  | .registerWrite _ _ _ | .hostLinkFlit _ | .bundleIssue | .commitOverflow | .cleancntWrap | .mkatOutcome
  | .instructionFetchFill | .pageWalk | .invalidationComplete | .leasetoExpiry | .berthArrival | .berthStart
  | .barrierArrivalApply | .waitpRetry | .waitpTimeout | .monwaitTimeout | .residencyEnd | .distQuiesced
  | .distctlRun | .pollSweep | .recordOffer | .launchRelease | .watchdogPreempt | .watchdogForce | .watchdogKill
  | .dbgHalt | .dbgDump | .dbgDumpDone | .dbgLoad | .sampleTick | .dieReady | .fullServiceTransition
  | .pciExpressLinkTrained => .next s

end Sys2Proof.Machine
end

