-- ==== Sys2Proof/Machine/Issue.lean ====
section
/-! DEFINITION. The issue of a bundle (R240, R242, R265, R400, R402) and the selector that gives a core cycle to a context
(R199, R296). -/

namespace Sys2Proof.Machine

/-! ### Stage 1: breakpoints and debug stops (R415, R417) -/

/-- Whether a slot issues an operation at k = 0: in mode new or nudge, or again with live sticky state. -/
def issuesAt (x : Ctx) (h : Word) (t : Nat) : Bool :=
  allSlots.any fun s => s.idx = t && (2 ≤ hMode h s || (hMode h s = 0 && (mget Sticky.rest x.a.sticky t).live))
/-- The lowest breakpoint that matches, with its SLOT field; one that has stopped this issue is not tested again (R400). -/
def State.bpHit (s : State) (n : CoreN) (c : CtxN) (h : Word) : Option (Nat × Nat) :=
  let x := s.ctx n c
  if !x.dbg then none
  else ((List.range 4).filterMap fun i =>
    let w := s.creg (dbgReg n c (0x20 + 8 * i))
    let sl := fld w 61 3
    if bitAt w 0 && !bitAt x.bpSkip i && fld w 2 46 = fld x.a.pc 2 46 && (sl = 7 || issuesAt x h sl) then some (i, sl) else none).head?
/-- Stage 1. A step stop is taken while STEP is 1 (R416). -/
def State.stage1 (s : State) (n : CoreN) (c : CtxN) (h : Word) : Option State :=
  let x := s.ctx n c
  if x.a.rep ≠ 0 then none
  else
    let stop (code sub slot : Nat) (m : BitVec 4) : State :=
      (s.setCtx n c { x with haltReq := false, bpSkip := x.bpSkip ||| m }).hold n c ⟨code, sub, 1, 0, x.a.pc, slot, 0, 0⟩
    match s.bpHit n c h with
    | some (i, sl) => some (stop 0x0E i sl (1 <<< i))
    | none =>
      let step := x.stepDue && bitAt (s.creg (dbgReg n c 0)) 1
      if x.haltReq || step then some (stop 0x0F 0 7 0) else none

/-! ### Stages 2 to 4 -/

/-- Tile configuration, reasons 1 and 2, of the first slot that meets one (R359). -/
def State.stage3 (s : State) (n : CoreN) (c : CtxN) (ops : List (Slot × Instr)) : Option State :=
  let x := s.ctx n c
  (ops.findSome? fun q => (tileFault x.a q.2).map fun r => (q.1, r)).map fun q =>
    s.takeLocal n c ⟨2, 0, 1, BitVec.ofNat 64 (q.2.1 + 16 * q.2.2), x.a.pc, q.1.idx, x.a.rep.toNat, 0⟩
/-- Commit overflow (R406): the stop, after which the bundle issues as a checkpoint bundle. -/
def State.overflowStop (s : State) (n : CoreN) (c : CtxN) (sub : Nat) : State :=
  let x := s.ctx n c
  (s.setCtx n c { x with overflowed := true }).hold n c ⟨0x0C, sub, 1, 0, x.a.pc, 7, x.a.rep.toNat, 0⟩
def State.stage4 (s : State) (n : CoreN) (c : CtxN) (ckpt : Bool) (ops : List Instr) : Option State :=
  let x := s.ctx n c
  if x.overflowed then none
  else match x.overflow n ckpt ops with
    | some sub => some (s.overflowStop n c sub)
    | none =>
      if x.overdue (s.core n).cyc.toNat then some (s.overflowStop n c (if 480 ≤ x.undo.length then 1 else 0)) else none

/-! ### Stage 5: the checkpoint (R102, R104, R138, R404, R406, R407) -/

/-- Retirement, deferred machine check and pre-emption, then the checkpoint; answers whether the bundle goes on. -/
def State.stage5 (s : State) (n : CoreN) (c : CtxN) (impl : Bool) : State × Bool :=
  let r := if (s.ctx n c).retired then (s, true)
    else
      let r := s.retire n c impl
      if r.2 then (r.1.setCtx n c { (r.1.ctx n c).checkpoint with retired := true, fresh := true }, !(r.1.ctx n c).held) else r
  let s := r.1
  let x := s.ctx n c
  if !r.2 then (s, false)
  else if x.fresh && bitAt x.a.mcdef 63 then (s.retireStop n c 9 0, false)
  else match (if x.fresh then x.preq else none) with
    | some reason => (s.beginPreempt n c reason, false)
    | none => (s.setCtx n c x.checkpoint, true)

/-! ### Markers and the interlock trace (R423) -/

/-- Drift, saturated to 32 bits. -/
def satDrift (a e : Nat) : Int := max (-(2 ^ 31)) (min (2 ^ 31 - 1) ((a : Int) - e))
/-- INTLK and ARMED at the start of an issue. -/
def State.intlk (s : State) (n : CoreN) (c : CtxN) : State :=
  let x := s.ctx n c
  let r := dbgReg n c 0x60
  let armed := fld (s.creg r) 32 9
  if armed = 0 then s
  else
    let s := s.setCreg r (putFld (s.creg r) 32 9 (armed - 1))
    let d := match x.prevIss with | some t => (s.core n).cyc.toNat - t - 1 | none => 0
    if d = 0 then s else s.traceIf n c 3 6 x.waitWhy.1 x.waitWhy.2 (BitVec.ofNat 64 d)
/-- The marker of a bundle. The operations of the bundle see DRIFTTHR as it was before (R9). -/
def State.marker (s : State) (n : CoreN) (c : CtxN) (m : Option (BitVec 32)) : State :=
  let x := s.ctx n c
  let now := (s.core n).cyc.toNat
  let from' := x.markAt.getD now
  match m with
  | none => s.setCtx n c { x with firstDone := true, markAt := some from' }
  | some e =>
    let d := satDrift (now - from') e.toNat
    let w := putFld x.a.driftthr 32 32 (BitVec.ofInt 32 d).toNat
    let s := s.setCtx n c { x with
      a := { x.a with driftthr := w }, csrOld := x.csrOld ++ [(0x24, x.a.driftthr)], firstDone := true, markAt := some now }
    let thr := fld w 0 32
    let s' := s.traceIf n c 3 5 0 (sopName 7 0 x.a.pc) (putFld (putFld 0 32 32 e.toNat) 0 32 (BitVec.ofInt 32 d).toNat)
    if s.tracing n c 3 && thr ≠ 0 && thr < d.natAbs then
      s'.setCreg (dbgReg n c 0x60) (putFld (s'.creg (dbgReg n c 0x60)) 32 9 256)
    else s'

/-! ### Stage 6: the slots (R240) -/

/-- State of a bundle part of the way through. -/
def Ctx.partway (x : Ctx) (done : Nat) : Ctx := { x with opened := true, done := done }
/-- Whether issue stops after slot L: its entry is a configuration or a restore, or an atomic whose address is not yet known. -/
def Ctx.stopsAfterL (x : Ctx) : Bool :=
  x.lq.any Entry.isCfg || x.sq.any fun e => e.unknown && (match e.kind with | .atom _ _ _ _ _ _ => true | _ => false)
/-- One slot issues; answers whether the next one does. -/
def State.issueSlot (s : State) (n : CoreN) (c : CtxN) (q : PSlot) : State × Bool :=
  let old := mget Sticky.rest (s.ctx n c).a.sticky q.slot.idx
  let put (s : State) (st : Sticky) : State :=
    s.mapArch n c fun a => { a with sticky := mset Sticky.rest a.sticky q.slot.idx st }
  let s := put { s with foc := ⟨n, c, q.slot, false⟩ } q.st
  let next (s : State) : State := s.setCtx n c { s.ctx n c with seq := (s.ctx n c).seq + 1 }
  match q.op with
  | none => (s, true)
  | some i =>
    if irrevocable i && (s.ctx n c).reissue then (next s, true)
    else
      let eng := q.slot = .M && (match i with | .mma _ | .mmas _ => true | _ => false)
      match issueOp i s with
      | .next t =>
        if t.foc.trapped then
          let unsup := t.ctx n c |>.a.trapcause |> fun w => fld w 0 8 = 8
          let t := if unsup then t else put t old
          let t := if (t.ctx n c).held then t.setCtx n c ((t.ctx n c).partway (if unsup then 0x3F else 2 ^ q.slot.idx - 1)) else t
          ({ t with foc := ⟨n, c, .A, false⟩ }, false)
        else
          let t := if eng then t.count n c 9 1 else t
          let t := next t
          let x := t.ctx n c
          let t := if irrevocable i then t.setCtx n c { x with irr := true } else t
          if q.slot = .L && x.stopsAfterL then (t.setCtx n c ((t.ctx n c).partway 0x3F), false) else (t, true)
      | _ => (s, true)
/-- The slots of a plan in order. -/
def State.issueSlots (s : State) (n : CoreN) (c : CtxN) : List PSlot → State × Bool
  | [] => (s, true)
  | q :: t =>
    let r := s.issueSlot n c q
    if r.2 then State.issueSlots r.1 n c t else r

/-! ### The end of an issue (R196, R242, R265, R281) -/

/-- The bundle's transfer, or the next bundle, or the body again. -/
def Ctx.advance (x : Ctx) (h : Word) (pos : Option Nat) : Ctx :=
  if x.a.rep.toNat < hRep h then { x with a := { x.a with rep := x.a.rep + 1 } }
  else
    let a := { x.a with rep := 0, pc := x.tgt.getD x.npc }
    { x with
      a := match pos with | some j => a.loopNext j (hE h) | none => a
      tgt := none }
/-- Where the bundle transfers to (R281, R292, R293), as a BRANCH record names it (R421). -/
def Ctx.branchTo (x : Ctx) : Option Word :=
  match x.post with
  | some .eret => some x.eretPc
  | some (.trap _) => if x.a.handler then some (putFld 0 0 48 x.a.trapvec.toNat &&& ~~~3) else x.tgt
  | _ => x.tgt
/-- The issue ends: a context cycle has passed. -/
def State.endIssue (s : State) (n : CoreN) (c : CtxN) (p : Plan) : State :=
  let x := s.ctx n c
  let now := (s.core n).cyc.toNat
  let last := hRep p.b.hdr ≤ x.a.rep.toNat
  let step := last && x.stepReq
  let x' := { x.advance p.b.hdr p.pos with
    opened := false, done := 0, owed := 0, retired := false, reissue := false, fresh := false, bpSkip := 0
    stepDue := step
    stepReq := x.stepReq && !step }
  let x' := { x' with
    a := { x'.a with ctxtime := x'.a.ctxtime + 1 + BitVec.ofNat 64 x.owed } }.markNear now
  let s := match x.branchTo with
    | some t => s.traceIf n c 1 1 0 (sopName 0 x.a.rep.toNat x.a.pc) t
    | none => s
  let s := ((s.setCtx n c x').count n c 1 1).settle n c
  match x.post with
  | some .eret => s
  | _ => s.setCtx n c { s.ctx n c with csrOld := [] }

/-! ### Configuration and restore (R359, R360, R376) -/

/-- The bytes read for each reloaded tile, in turn, by the sizes of the tiles. -/
def splitRel (sz : Nat → Nat) (org : List (Nat × Word × Word × Word × BitVec 5)) (data : List Byte) : List (Nat × List Byte) :=
  (org.foldl (fun (p : List (Nat × List Byte) × Nat) l =>
    (p.1 ++ [(l.1, (data.drop p.2).take (sz l.1))], p.2 + sz l.1)) ([], 0)).1
/-- The reloaded tiles whose folds differ from their origins' (R376, R410). -/
def relDiffers (sh : Nat → Shape) (org : List (Nat × Word × Word × Word × BitVec 5)) (rel : List (Nat × List Byte)) : List Nat :=
  (org.filter fun l => memFold (sh l.1).rlen (((rel.find? fun r => r.1 = l.1).map (·.2)).getD []) ≠ l.2.2.2.1).map (·.1)
/-- The first of them. -/
def relBad (sh : Nat → Shape) (org : List (Nat × Word × Word × Word × BitVec 5)) (rel : List (Nat × List Byte)) : Option Nat :=
  (relDiffers sh org rel).head?
/-- TRAPARG for a configuration or restore whose reads are done and that is refused, or the tile state it gives. -/
def Ctx.cfgResult (x : Ctx) (e : Entry) : Sum Nat (Arch → Arch) :=
  match e.kind with
  | .tcfg =>
    match blkReason e.data x.tres with
    | some r => .inl (blkTile e.data r + 16 * r)
    | none => .inr fun a => a.tcfg (blkOf e.data)
  | .trest org blk =>
    match blkReason blk x.tres with
    | some r => .inl (blkTile blk r + 16 * r)
    | none =>
      if imgBad blk then .inl (imgTile blk + 16 * 6)
      else
        let sh (t : Nat) : Shape := (blkOf blk).sh.getD t ⟨0, 0⟩
        let rel := splitRel (fun t => (sh t).rows * (sh t).rlen) org e.data
        match relBad sh org rel with
        | some t => .inl (t + 16 * 6)
        | none => .inr fun a => a.fromImage blk rel true
  | _ => .inl (16 * 4)
/-- The configuration leaves the load queue. -/
def Ctx.dropCfg (x : Ctx) : Ctx := { x with lq := x.lq.filter fun e => !e.isCfg }
/-- Context time goes on to D, and the results due in it land (R360). -/
def Ctx.toDue (x : Ctx) (d : Nat) : Ctx :=
  { x.dropCfg with a := { x.a with ctxtime := BitVec.ofNat 64 (max x.a.ctxtime.toNat d) } }.landDue
/-- The trap of reasons 3, 4 and 6: the issue has taken its context cycle, and context time stands at max(c + 1, D). -/
def State.cfgTrap (s : State) (n : CoreN) (c : CtxN) (d arg : Nat) : State :=
  let x := s.ctx n c
  let y := { x with a := { x.a with ctxtime := x.a.ctxtime + 1 } }.toDue d
  let s := (s.setCtx n c y).takeLocal n c ⟨2, 0, 1, BitVec.ofNat 64 arg, x.a.pc, 5, x.a.rep.toNat, 0x3F⟩
  if (s.ctx n c).held then s.setCtx n c { (s.ctx n c).partway 0x3F with taken := y.a.ctxtime.toNat - x.a.ctxtime.toNat } else s
/-- The configuration acts. A restore writes every accumulator and bound, and so does a configuration that gives the accumulators (R360,
R376): the tests of the retirement look at them, and none of them is under escalation any longer (R167, R169, R179). -/
def State.cfgAct (s : State) (n : CoreN) (c : CtxN) (d : Nat) (rest : Bool) (f : Arch → Arch) : State :=
  let x := ((s.ctx n c).toDue d).markNear (s.core n).cyc.toNat
  let a := f x.a
  if rest || (a.ton && !x.a.ton) then
    let a32 := (List.range 4).foldl (fun (m : BitVec 4) i => if a.acc.precOf i then m else m ||| (1 <<< i)) 0
    s.setCtx n c { x with a := a, wrAcc := 0xF, wrBnd := 0xF, wr32 := x.wr32 ||| a32, esc := 0, escL := 0 }
  else s.setCtx n c { x with a := a }

/-! ### One issue -/

/-- The slots that remain, then the end of the issue. -/
def State.finishIssue (s : State) (n : CoreN) (c : CtxN) (p : Plan) : State :=
  let cfg := (s.ctx n c).lq.find? fun e => e.isCfg
  let d := (s.ctx n c).tileDue
  match cfg.map (s.ctx n c).cfgResult with
  | some (.inl r) => s.cfgTrap n c d r
  | some (.inr f) =>
    let rest := match cfg.map (·.kind) with | some (.trest _ _) => true | _ => false
    let r := s.issueSlots n c p.slots
    if r.2 then (r.1.endIssue n c p).cfgAct n c d rest f else r.1
  | none =>
    let r := s.issueSlots n c p.slots
    if r.2 then r.1.endIssue n c p else r.1
/-- Whether a plan's bundle is a checkpoint bundle by its own words, and whether it is treated as one. -/
def Plan.own (p : Plan) (x : Ctx) : Bool := isCkpt x p.b.hdr (p.ops.map (·.2))
def Plan.ckpt (p : Plan) (x : Ctx) : Bool := p.own x || implCkpt x p.b.hdr
/-- The stop that stages 1 to 4 find for an issue that begins: the first of them (R400). -/
def State.early (s : State) (n : CoreN) (c : CtxN) (p : Plan) : Option State :=
  (s.stage1 n c p.b.hdr).orElse fun _ => (p.bad.map fun slot => s.illegal n c slot).orElse fun _ =>
    (s.stage3 n c p.ops).orElse fun _ => s.stage4 n c (p.ckpt (s.ctx n c)) (p.ops.map (·.2))
/-- Stages 1 to 5 for an issue that begins. -/
def State.openIssue (s : State) (n : CoreN) (c : CtxN) (p : Plan) : State × Bool :=
  let x := s.ctx n c
  match s.early n c p with
  | some t => (t, false)
  | none =>
    let r := if p.ckpt x then s.stage5 n c (!p.own x) else (s, true)
    if r.2 then
      let s := r.1.intlk n c
      (if x.a.rep = 0 then s.marker n c p.b.mark else s, true)
    else r
/-- A header in which every slot is idle, for the address of a transfer that is no bundle address. -/
def idleHdr : Word := 0x1555
/-- The context issues: its results due land first. A target that is neither canonical nor aligned raises the permission fault (log entry
104). -/
def State.issueCtx (s : State) (n : CoreN) (c : CtxN) : State :=
  let x := s.ctx n c
  let x := if x.taken ≠ 0 then
      { x with a := { x.a with ctxtime := x.a.ctxtime - BitVec.ofNat 64 x.taken }, owed := x.taken - 1, taken := 0 }
    else x.landDue
  let x := x.markNear (s.core n).cyc.toNat
  let s := s.setCtx n c x
  match s.plan n c with
  | .miss l => s.setCtx n c { x with fetchWait := some l }
  | .badTarget =>
    match s.stage1 n c idleHdr with
    | some t => t
    | none =>
      if fld x.a.pc 48 16 ≠ 0 then
        (s.hold n c ⟨0x10, 1, 2, x.a.pc, x.a.pc, 7, x.a.rep.toNat, 0⟩).permRec n c 1 3 x.a.pc 0
      else s.illegal n c 7
  | .ok p =>
    let s := s.setCtx n c { x with npc := p.next, inBody := p.pos.isSome }
    let r := if x.opened then (s, true) else s.openIssue n c p
    if r.2 then
      let s := r.1.finishIssue n c p
      s.setCtx n c { s.ctx n c with prevIss := some (s.core n).cyc.toNat }
    else r.1

/-! ### The selector (R199, R296) -/

/-- Whether step 2 or step 3 of R199 must leave a context out after its yield. -/
def Ctx.yielding (x : Ctx) (now : Nat) : Bool := match x.yieldAt with | some t => now ≤ t + 64 | none => false
def Ctx.passed (x : Ctx) (now : Nat) : Bool := x.yielding now && !x.yieldSet.isEmpty
/-- The oldest urgent context. -/
def State.urgent (s : State) (n : CoreN) (l : List CtxN) : Option CtxN :=
  (l.filter fun c => 60 ≤ (s.ctx n c).readyFor).foldl (fun b c =>
    match b with
    | none => some c
    | some d => if (s.ctx n d).readyFor < (s.ctx n c).readyFor then some c else b) none
/-- The context that the selector picks among the ready ones. -/
def State.select (s : State) (n : CoreN) (l : List CtxN) : Option CtxN :=
  let k := s.core n
  let now := k.cyc.toNat
  match s.urgent n l with
  | some c => some c
  | none =>
    let last := ctxNo k.last
    if k.lastRan && l.contains last && !(s.ctx n last).yielding now then some last
    else ([1, 2, 3, 4].map fun i => ctxNo (k.last + i)).find? fun c => l.contains c && !(s.ctx n c).passed now
/-- What is settled before a core cycle's selection: control effects that have waited, MONWAIT, fetch misses. -/
def State.prepare (s : State) (n : CoreN) (c : CtxN) : State :=
  let s := s.settle n c
  let s := s.setCtx n c ((s.ctx n c).computed (s.core n).cyc.toNat).monSettle
  if (s.ctx n c).canIssue then
    match s.plan n c with
    | .miss l => s.setCtx n c { s.ctx n c with fetchWait := some l }
    | _ => s
  else s
/-- Why a context that does not issue in this core cycle does not, as INTLK names it (R423). -/
def State.waitReason (s : State) (n : CoreN) (c : CtxN) : Nat × Word :=
  let x := s.ctx n c
  match s.lateOp n c with
  | some p => (0, sopName p.slot.idx p.k p.pc)
  | none =>
    if s.ready n c then (2, sopName 7 x.a.rep.toNat x.a.pc)
    else if s.active n c then (1, sopName 4 x.a.rep.toNat x.a.pc)
    else (3, sopName 7 x.a.rep.toNat x.a.pc)
/-- The watchdog's count of a context (R229): it pauses while the context is dormant or stopped. -/
def Ctx.tick (x : Ctx) : Ctx :=
  match x.run with
  | .live | .waiting | .ending _ => { x with wdCnt := x.wdCnt + 1 }
  | _ => x
/-- A context passed over in this core cycle: its counters and its wait. -/
def State.passOver (s : State) (n : CoreN) (c : CtxN) : State :=
  let x := (s.ctx n c).tick
  if !x.resident then s
  else
    let rdy := s.ready n c
    let w := s.waitReason n c
    let s := s.setCtx n c { x with readyFor := if rdy then x.readyFor + 1 else 0, waitWhy := w }
    if rdy then s.count n c 4 1
    else if w.1 = 1 then s.count n c 3 1
    else if w.1 = 0 && x.run == .live then s.count n c 2 1
    else s
/-- The controller holds back issue in this core cycle (R437): while THROT is 1, in seven of eight. -/
def State.heldBack (s : State) (n : CoreN) : Bool :=
  bitAt (s.creg (dieReg 0 0x700018)) 16 && (s.core n).cyc.toNat % 8 ≠ 0
/-- State and name of a sample (R425). -/
def State.sampleOf (s : State) (n : CoreN) (c : CtxN) : Nat × Word :=
  let x := s.ctx n c
  if x.run = .dormant then (4, 0)
  else if x.held then (3, s.creg (dbgReg n c 0x10))
  else match s.lateOp n c with
    | some p => (2, sopName p.slot.idx p.k p.pc)
    | none => if s.active n c && !s.ready n c then (1, sopName 4 x.a.rep.toNat x.a.pc) else (0, sopName 7 x.a.rep.toNat x.a.pc)
/-- The samples of a core cycle in which PERIOD core cycles have passed; they are taken once. -/
def State.sampleTick (s : State) (n : CoreN) : State :=
  let per := fld (s.creg (pmcReg n 0x40)) 0 32
  let now := (s.core n).cyc.toNat
  if per = 0 || now % per ≠ 0 || (s.core n).sampled = some now then s
  else
    let s := s.setCore n { s.core n with sampled := some now }
    allCtx.foldl (fun s c =>
      let w := s.sampleOf n c
      s.traceIf n c 5 7 w.1 w.2 (s.creg (pmcReg n 0x20))) s
/-- The selected context issues; in a core cycle in which a cause before its slots lets no bundle issue, that is what its next INTLK names
(R400, R423). -/
def State.issueSelected (s : State) (n : CoreN) (c : CtxN) : State :=
  let t := s.issueCtx n c
  let x := t.ctx n c
  if x.prevIss = some (s.core n).cyc.toNat then t
  else t.setCtx n c { x with waitWhy := (3, sopName 7 x.a.rep.toNat x.a.pc) }
/-- One core cycle of the core in focus. -/
def State.coreCycle (s : State) (n : CoreN) : State :=
  let s := allCtx.foldl (fun s c => s.prepare n c) (s.sampleTick n)
  let pick := if s.heldBack n then none else s.select n (allCtx.filter (s.ready n))
  let s := (allCtx.filter fun c => some c != pick).foldl (fun s c => s.passOver n c) s
  let s := match pick with
    | none => s
    | some c =>
      let s := s.setCtx n c { (s.ctx n c).tick with readyFor := 0 }
      let s := allCtx.foldl (fun (s : State) d => s.setCtx n d { s.ctx n d with yieldSet := (s.ctx n d).yieldSet.filter (· ≠ c.toNat) }) s
      s.issueSelected n c
  let k := s.core n
  s.setCore n { k with
    cyc := k.cyc + 1
    last := match pick with | some c => c.toNat | none => k.last
    lastRan := pick.isSome }

/-- BUNDLE_ISSUE: a core cycle of the core in focus. -/
def execBundleIssue (s : State) : Out :=
  let t := s.coreCycle s.foc.core
  .next { t with foc := { t.foc with core := s.foc.core, ctx := s.foc.ctx, slot := .A, trapped := false } }
/-- COMMIT_OVERFLOW: 256 core cycles after its mark, the context in focus stops at its next issue, if no earlier stage stops it (R400,
R406). -/
def execCommitOverflow (s : State) : Out :=
  let n := s.foc.core
  let c := s.foc.ctx
  let x := (s.ctx n c).landDue
  if (s.ctx n c).canIssue && x.taken = 0 && !x.opened && !x.overflowed && x.overdue (s.core n).cyc.toNat then
    let t := s.setCtx n c x
    match t.plan n c with
    | .ok p => .next ((t.setCtx n c { x with npc := p.next, inBody := p.pos.isSome }).early n c p |>.getD s)
    | _ => .next s
  else .next s

end Sys2Proof.Machine
end

