-- ==== Sys2Proof/Machine/Residency.lean ====
section
/-! DEFINITION. Residencies: the extent table a core loads (R25, R26), the save area (R408 to R410), dispatch, pre-emption, kill,
resumption and the end of a residency (R132, R193, R195, R211, R399, R407, R461). -/

namespace Sys2Proof.Machine

/-! ### Extent tables (R25, R26) -/

/-- Page size of a class. -/
def pscSize (c : Nat) : Nat := 2 ^ (match c with | 0 => 12 | 1 => 16 | 2 => 21 | 3 => 25 | _ => 30)
/-- First byte of each row of the map of R14, and the end of the map. -/
def mapRows : List Nat :=
  [0, 0x10000000000, 0x10100000000, 0x20000000000, 0x20040000000, 0x40000000000, 0x7FFFF00000000, 0x8000000000000,
    0xC000000000000, 0x10000000000000]
/-- A physical range lies within one row of the map, and for HBM within one stack. -/
def oneRow (pa len : Nat) : Bool :=
  let l := pa + len - 1
  l < 0x10000000000000 && mapRows.all (fun r => decide (pa < r) == decide (l < r)) && (regionOf pa != .hbm || stackOf pa == stackOf l)
/-- The four words of an entry break R26 or hold a non-zero reserved field. -/
def extBad (w0 w1 w2 w3 : Word) : Bool :=
  fld w0 48 16 ≠ 0 || fld w1 52 12 ≠ 0 || fld w2 48 16 ≠ 0 || fld w3 32 32 ≠ 0 || fld w3 13 3 ≠ 0 || bitAt w3 7 || bitAt w3 1
    || (bitAt w3 0 &&
      (let v := w0.toNat
       let p := w1.toNat
       let l := w2.toNat
       let sz := pscSize (fld w3 8 3)
       v % 4096 ≠ 0 || p % 4096 ≠ 0 || l % 4096 ≠ 0 || l = 0 || 2 ^ 48 < v + l || v % sz ≠ p % sz || !oneRow p l
         || bitAt w3 6 != (regionOf p == .ctl) || 4 < fld w3 8 3 || fld w3 11 2 = 3))
def extOf (w0 w1 w2 w3 : Word) : Extent :=
  ⟨w0.toNat, w1.toNat, w2.toNat, w3.extractLsb' 16 16, w3.extractLsb' 11 2, bitAt w3 6, bitAt w3 5, bitAt w3 4, bitAt w3 3, bitAt w3 2⟩
/-- What a core takes from an extent table. -/
structure Table where
  ptroot : Nat
  lw : BitVec 2
  asid : BitVec 16
  ext : List Extent
/-- The table at an address, if it passes R26. -/
def State.loadTable (s : State) (xt : Nat) : Option Table :=
  let w (i : Nat) : Word := s.rd64 (xt + 8 * i)
  let n := fld (w 1) 16 5
  let hdrBad := fld (w 0) 52 12 ≠ 0 || fld (w 0) 0 12 ≠ 0 || fld (w 1) 23 41 ≠ 0 || (List.range 5).any fun i => w (3 + i) ≠ 0
  let e (i j : Nat) : Word := w (8 + 4 * i + j)
  if hdrBad || 16 < n || (List.range n).any fun i => extBad (e i 0) (e i 1) (e i 2) (e i 3) then none
  else some ⟨fld (w 0) 12 40 * 4096, (w 1).extractLsb' 21 2, (w 1).extractLsb' 0 16,
    ((List.range n).filter fun i => bitAt (e i 3) 0).map fun i => extOf (e i 0) (e i 1) (e i 2) (e i 3)⟩

/-! ### The pending log (R409) -/

/-- One entry of the pending log. -/
structure LogE where
  kind : Nat
  num : Nat
  data : List Byte
  en : List Bool
  bound : Option (BitVec 32)
  prec : Option Bool
  org : Option Origin
  folds : Option (Word × Word)
/-- An entry with every byte enabled and an empty trailer. -/
def LogE.plain (kind num len v : Nat) : LogE :=
  ⟨kind, num, leBytes len v, List.replicate len true, none, none, none, none⟩
/-- Rows of an image of 32 rows of 144 bytes. -/
def rowBytes (rs : List RowW) : List Byte :=
  (List.range 32).flatMap fun i => leBytes 144 ((rs.filter (·.row = i)).foldl putRow 0).toNat
/-- Cells as the accumulator area holds them, and which of them there are. -/
def cellBytes (cells : List (Nat × Word)) : List Byte × List Bool :=
  let m := cells.foldl (fun m c => mput m c.1 (some c.2)) ([] : SMap (Option Word))
  let at' (q : Nat) : Option Word := mget none m q
  ((List.range 1024).flatMap (fun q => leBytes 8 ((at' q).getD 0).toNat),
   (List.range 1024).flatMap fun q => List.replicate 8 (at' q).isSome)
/-- What a write of a result is in the log. -/
def Write.logE (x : Ctx) : Write → LogE
  | .s n u => .plain 0 n 8 u.toNat
  | .p n b => .plain 1 n 8 (if b then 1 else 0)
  | .m n u => .plain 2 n 8 u.toNat
  | .v n u => .plain 3 n 64 u.toNat
  | .tile n rs bt org =>
    ⟨4, n, rowBytes rs, (rowBytes (rs.map fun r => { r with v := 2 ^ r.len - 1 })).map (· ≠ 0), bt, none,
      some (org.getD (x.a.originOf n)), none⟩
  | .acc n cells prec ba fp fs =>
    let d := cellBytes (cells.map fun c => (c.1, c.2.1))
    ⟨5, n, d.1, d.2, ba, prec, none, some (fp, fs)⟩
  | .accw n cells wide =>
    let cs := cells.map fun c => (c.1, cellOf32 (wide || x.a.ev.precOf n) c.2)
    let others := if wide && !x.a.acc.precOf n then (List.range 1024).map fun q => (q, (x.a.acc.widen n).cellP n (q / 32) (q % 32)) else []
    let d := cellBytes (others ++ cs)
    ⟨5, n, d.1, d.2, none, if wide then some true else none, none, some (foldCells cs, foldCells cs)⟩
  | .bnd t u => .plain 6 t 4 u.toNat
  | .k n en u => { LogE.plain 7 n 16 u.toNat with en := (List.range 16).map fun i => bitAt en i }
  | .lc n u => .plain 8 n 4 u.toNat
  | .sgz n => .plain 9 n 0 0
/-- Zero bytes up to the next multiple of 64. -/
def pad64 (bs : List Byte) : List Byte := bs ++ List.replicate ((64 - bs.length % 64) % 64) 0
/-- Bits as bytes, the first in bit 0. -/
def bitBytes (l : List Bool) : List Byte :=
  leBytes (l.length / 8) ((l.zipIdx).foldl (fun v b => if b.1 then v + 2 ^ b.2 else v) 0)
/-- The bytes of an entry due `rem` cycles on. -/
def LogE.bytes (e : LogE) (rem : Nat) : List Byte :=
  let flag (o : Bool) : Nat := if o then 1 else 0
  let t0 := putFld (putFld (putFld (putFld (putFld (putFld (putFld 0 0 32 (e.bound.getD 0).toNat) 32 1 (flag e.bound.isSome))
    33 1 (flag (e.prec.getD false))) 34 1 (flag e.prec.isSome)) 35 1 (flag e.org.isSome)) 36 1 (flag e.folds.isSome))
    37 2 (originCode (e.org.getD .none))
  let f := e.folds.getD (0, 0)
  pad64 (leBytes 8 (putFld (putFld (putFld 0 48 16 rem) 44 4 e.kind) 34 10 e.num).toNat ++ leBytes 8 e.data.length ++ e.data
    ++ bitBytes e.en ++ leBytes 8 t0.toNat ++ leBytes 8 f.1.toNat ++ leBytes 8 f.2.toNat ++ leBytes 8 0
    ++ originBytes (e.org.getD .none))
/-- The pending log of a context: its results in program order (R196, R377; log entry 56). REMAIN is at least 1 (R409), for a result that is
late as well (log entry 34). -/
def Ctx.logBytes (x : Ctx) : List Byte :=
  x.pend.flatMap fun p => p.ws.flatMap fun w => (w.logE x).bytes (max 1 (p.due - x.a.ctxtime.toNat))

/-- Runs of enabled bytes of a row, as row writes. -/
def enRuns (row : Nat) : List (Byte × Bool) → Nat → List RowW → List RowW
  | [], _, l => l
  | (b, e) :: t, j, l =>
    if !e then enRuns row t (j + 1) l
    else match l.getLast? with
      | some r =>
        if r.row = row && r.lo + r.len = 8 * j then
          enRuns row t (j + 1) (l.dropLast ++ [{ r with len := r.len + 8, v := r.v + b.toNat * 2 ^ r.len }])
        else enRuns row t (j + 1) (l ++ [⟨row, 8 * j, 8, b.toNat⟩])
      | none => enRuns row t (j + 1) (l ++ [⟨row, 8 * j, 8, b.toNat⟩])
/-- An entry read back: its cycles to go and its write, and how many bytes it takes. A bound is taken as it stands (log entry 87). -/
def logRead (bs : List Byte) : Nat × Option Write × Nat :=
  let w0 : Word := BitVec.ofNat 64 (slice bs 0 8)
  let len := slice bs 8 4
  let data := (bs.drop 16).take len
  let en := (bs.drop (16 + len)).take (len / 8)
  let enAt (i : Nat) : Bool := bitAt (en.getD (i / 8) 0) (i % 8)
  let tr := bs.drop (16 + 9 * len / 8)
  let t0 : Word := BitVec.ofNat 64 (slice tr 0 8)
  let num := fld w0 34 10
  let v : Word := BitVec.ofNat 64 (slice data 0 8)
  let bound : Option (BitVec 32) := if bitAt t0 32 then some (BitVec.ofNat 32 (fld t0 0 32)) else none
  let w : Option Write :=
    match fld w0 44 4 with
    | 0 => some (.s num v)
    | 1 => some (.p num (bitAt v 0))
    | 2 => some (.m num v)
    | 3 => some (.v num (BitVec.ofNat 512 (leNat data)))
    | 4 =>
      let rows := (List.range 32).flatMap fun i =>
        enRuns i ((List.range 144).map fun j => (data.getD (144 * i + j) 0, enAt (144 * i + j))) 0 []
      some (.tile num rows bound (some (originAt (fld t0 37 2) (tr.drop 32))))
    | 5 =>
      let cs := ((List.range 1024).filter fun q => enAt (8 * q)).map fun q =>
        let u : Word := BitVec.ofNat 64 (slice data (8 * q) (if bitAt t0 34 && !bitAt t0 33 then 4 else 8))
        (q, u, u)
      some (.acc num cs (if bitAt t0 34 then some (bitAt t0 33) else none) bound
        (BitVec.ofNat 64 (slice tr 8 8)) (BitVec.ofNat 64 (slice tr 16 8)))
    | 6 => some (.bnd num (v.setWidth 32))
    | 7 => some (.k num ((List.range 16).foldl (fun m i => if enAt i then m ||| ((1 : BitVec 16) <<< i) else m) 0)
        (BitVec.ofNat 128 (leNat data)))
    | 8 => some (.lc num (v.setWidth 32))
    | 9 => some (.sgz num)
    | _ => none
  (fld w0 48 16, w, (16 + 9 * len / 8 + 64 + 63) / 64 * 64)
/-- The whole log. -/
def logAll : Nat → List Byte → List (Nat × Write)
  | 0, _ => []
  | fuel + 1, bs =>
    if bs.isEmpty then []
    else
      let r := logRead bs
      (match r.2.1 with | some w => [(r.1, w)] | none => []) ++ logAll fuel (bs.drop r.2.2)

/-! ### The save area (R408) -/

/-- The CSRs of the save area, in order. -/
def Arch.csrSaved (a : Arch) : List Word :=
  [a.bthr, a.besc, a.mcdef, a.waitctl, a.driftthr, a.trapcause, a.trappc, a.trapslot, a.donemask, a.traparg, a.trapvec, a.ctxmode,
    a.ctxtime, a.loopst]
/-- What the core writes: offsets and bytes. -/
def Ctx.saveImage (x : Ctx) (dorm : Bool) : List (Nat × List Byte) :=
  let a := x.a
  let log := x.logBytes
  let hdr := putFld (putFld (putFld (putFld 0 32 32 log.length) 24 8 1) 16 1 (if dorm then 1 else 0)) 0 6 a.rep.toNat
  let st (i : Nat) : Sticky := mget Sticky.rest a.sticky i
  [(0, leBytes 8 hdr.toNat),
   (0x100, (List.range 64).flatMap fun n => leBytes 8 (a.rdS n).toNat),
   (0x300, leBytes 8 (a.pr ||| 1).toNat),
   (0x308, (List.range 8).flatMap fun n => leBytes 8 (a.rdM n).toNat),
   (0x400, a.csrSaved.flatMap fun w => leBytes 8 w.toNat),
   (0x500, (List.range 7).flatMap fun i => leBytes 8 (st i).word.toNat ++ leBytes 8 (st i).disp.toNat
      ++ leBytes 4 (st i).pfx0.toNat ++ leBytes 4 (st i).pfx1.toNat
      ++ leBytes 8 ((st i).step.toNat + if (st i).live then 16 else 0)),
   (0x600, (List.range 6).flatMap fun d => leBytes 4 (mget 0 a.lc d).toNat),
   (0x620, (List.range 6).flatMap fun d => leBytes 4 (mget 0 a.lbnd d).toNat),
   (0x640, (List.range 20).flatMap fun i => leBytes 2 (mget 0 a.lstr i).toNat),
   (0x670, leBytes 8 (fld a.body 0 48) ++ leBytes 8 a.loopst.toNat),
   (0x680, (List.range 16).flatMap fun n => leBytes 16 (a.rdK n).toNat),
   (0x780, (List.range 4).flatMap (fun n => leBytes 8 (mget 0 a.sgp n).toNat)
      ++ (List.range 4).flatMap fun n => leBytes 8 (mget 0 a.sgs n).toNat),
   (0x1000, (List.range (64 * x.vunits)).flatMap fun n => leBytes 64 (a.rdV n).toNat)]
    ++ (a.image.map fun p => (0x11000 + p.1, p.2)) ++ (if log.isEmpty then [] else [(0x23000, log)])
/-- Pieces of a save image written at their home. -/
def State.putImage (s : State) (pa : Nat) (l : List (Nat × List Byte)) : State :=
  l.foldl (fun s p => s.unitPut (pa + p.1) p.2) s
/-- The lines of a save area are about to be read: its image, then its pending log. -/
def State.getImage (s : State) (pa : Nat) : State :=
  let s := s.unitGet pa 0x23000
  s.unitGet (pa + 0x23000) (fld (s.rd64 pa) 32 32)

/-- Fields of the CSRs of the save area, in the order of R408; their reserved bits read as zero (R8). -/
def csrFields (i : Nat) : Word :=
  match i with
  | 0 => 0x3FF00FF
  | 1 => 0xFFFFFFFF000000F1
  | 2 => 0xE0FFFFFFFFFFFFFF
  | 3 => 0xFFFFFFFF
  | 5 => 0x1CFFFF
  | 6 => 0xFFFFFFFFFFFC
  | 7 => 7
  | 8 => 0x7F
  | 10 => 0xFFFFFFFFFFFD
  | 11 => 1
  | _ => 0xFFFFFFFFFFFFFFFF
/-- The engine-order view of accumulators with results in flight: the landed cells, then the writes in the order of the log (R377). -/
def Arch.withPend (a : Arch) (ps : List Pend) : Arch := ps.foldl (fun a p => p.ws.foldl Arch.evWrite a) { a with ev := a.acc }
/-- The state that a save area gives; the tiles with origin LOAD are zero until they are read again. A bound is loaded as it stands: R410 and
R419 check none, though R158 has no bound that is a NaN or negative (log entry 87). -/
def State.readArch (s : State) (pa : Nat) (vunits : Nat) (pc : Word) : Arch :=
  let w (o : Nat) : Word := s.rd64 (pa + o)
  let h (o len : Nat) : Nat := leNat (s.rdBytes (pa + o) len)
  let csr (i : Nat) : Word := w (0x400 + 8 * i) &&& csrFields i
  let lp := csr 13
  let sti (i : Nat) : Sticky :=
    let o := 0x500 + 32 * i
    ⟨h (o + 24) 1 / 16 % 2 = 1, w o, w (o + 8), BitVec.ofNat 32 (h (o + 16) 4), BitVec.ofNat 32 (h (o + 20) 4),
      BitVec.ofNat 4 (h (o + 24) 1)⟩
  let a : Arch := { Arch.zero with
    sr := msets 0 [] ((List.range 63).map fun n => (n + 1, w (0x108 + 8 * n)))
    pr := (w 0x300).setWidth 16 &&& 0xFFFE
    mr := msets 0 [] ((List.range 8).map fun n => (n, w (0x308 + 8 * n)))
    vr := msets 0 [] ((List.range (64 * vunits)).map fun n => (n, BitVec.ofNat 512 (h (0x1000 + 64 * n) 64)))
    kr := msets 0 [] ((List.range 16).map fun n => (n, BitVec.ofNat 128 (h (0x680 + 16 * n) 16)))
    lc := msets 0 [] ((List.range 6).map fun d => (d, BitVec.ofNat 32 (h (0x600 + 4 * d) 4)))
    lbnd := msets 0 [] ((List.range 6).map fun d => (d, BitVec.ofNat 32 (h (0x620 + 4 * d) 4)))
    lstr := msets 0 [] ((List.range 20).map fun i => (i, BitVec.ofNat 16 (h (0x640 + 2 * i) 2)))
    body := BitVec.ofNat 64 (h 0x670 6)
    llen := lp.extractLsb' 8 4
    lpos := lp.extractLsb' 4 4
    dims := lp.extractLsb' 0 3
    sticky := msets Sticky.rest [] ((List.range 7).map fun i => (i, sti i))
    rep := (w 0).extractLsb' 0 6
    pc := pc
    bthr := csr 0
    besc := csr 1
    mcdef := csr 2
    waitctl := csr 3
    driftthr := csr 4
    trapcause := csr 5
    trappc := csr 6
    trapslot := csr 7
    donemask := csr 8
    traparg := csr 9
    trapvec := csr 10
    ctxmode := csr 11
    ctxtime := csr 12 }
  let img := s.rdBytes (pa + 0x11000) 70016
  let b := a.fromImage img [] false
  { b with
    sgp := msets 0 [] ((List.range 4).map fun n => (n, w (0x780 + 8 * n)))
    sgs := msets 0 [] ((List.range 4).map fun n => (n, w (0x7A0 + 8 * n))) }
/-- The results in flight of a save area. -/
def State.readPend (s : State) (pa : Nat) (pc ctxtime : Word) : List Pend :=
  let len := fld (s.rd64 pa) 32 32
  ((logAll (len / 64 + 1) (s.rdBytes (pa + 0x23000) len)).zipIdx).map fun p =>
    ⟨ctxtime.toNat + p.1.1, p.2, pc, .A, 0, true, 0, [p.1.2]⟩
/-- A tile takes the bytes read for it. -/
def Arch.fillTile (a : Arch) (t : Nat) (bs : List Byte) (org : Option Origin) : Arch :=
  let sh := a.shapeOf t
  let a := { a with tile := msets 0 a.tile ((List.range 32).map fun i =>
    (32 * t + i, if i < sh.rows then BitVec.ofNat 1152 (slice bs (sh.rlen * i) sh.rlen) else 0)) }
  match org with
  | some o => { a with origin := mset .none a.origin t o }
  | none => a

/-! ### Reloads of LOAD tiles (R410) -/

/-- The runs of the rows to read. -/
def reloadRuns (a : Arch) (l : List (Nat × Word × Word × Word × BitVec 5)) : List Run1 :=
  (l.foldl (fun (p : List Run1 × Nat) q =>
    let sh := a.shapeOf q.1
    (p.1 ++ (List.range sh.rows).map fun i =>
      (⟨q.2.1, q.2.1 + BitVec.ofNat 64 i * q.2.2.1, sh.rlen, p.2 + sh.rlen * i⟩ : Run1), p.2 + sh.rows * sh.rlen)) ([], 0)).1
/-- The reloads that a restored state needs. -/
def Arch.loads (a : Arch) : List (Nat × Word × Word × Word × BitVec 5) :=
  (List.range 8).filterMap fun t =>
    match a.originOf t with
    | .load p st f ty chk =>
      if (a.shapeOf t).rows = 0 then none else some (t, p, st, f, (ty.setWidth 5 ||| if chk then 16 else 0))
    | _ => none
/-- The load entry of the reloads, or the stop of one that the extents refuse: it is tried again at the resumption. -/
def State.startReload (s : State) (n : CoreN) (c : CtxN) : State :=
  let x := s.ctx n c
  let l := x.a.loads
  if l.isEmpty then s
  else
    let runs := reloadRuns x.a l
    let e (ps : List Piece) : Entry :=
      ⟨x.seq, x.a.pc, .A, 0, .reload l, ps, [], none, none, false, none, false, false, false, false, 0, false, 0, none, [], false, false⟩
    let bad (sub : Nat) (ptr : Word) (pa : Nat) : State :=
      let s := s.setCtx n c { x with lq := [{ e ((cutAll runs).map (·.2)) with reported := true }] }
      (s.hold n c ⟨0x10, sub, 2, ptr, x.a.pc, 7, 0, 0⟩).permRec n c sub 0 ptr pa
    match issueTr x n needR runs with
    | .ok ps => (match ctlPiece ps with
      | some p => bad 2 p.ptr ((firstPa [p]).getD 0)
      | none => s.setCtx n c { x with lq := [e ps] })
    | .bad sub ptr pa => bad sub ptr pa

/-! ### Dispatch (R195, R211, R461) -/

/-- Whether the record's next bundle has had its irrevocable operations performed before a forced pre-emption (R104, R407; log entry 75). -/
def State.reissues (s : State) (rpa : Nat) : Bool := s.dies.any fun kv => kv.2.reissue.contains rpa
def State.dropReissue (s : State) (rpa : Nat) : State :=
  s.dies.foldl (fun s kv => s.mapDie kv.1 fun k => { k with reissue := k.reissue.filter (· ≠ rpa) }) s
/-- Words of a record. -/
def State.readRec (s : State) (rpa : Nat) : SMap Word := msets 0 [] ((List.range 8).map fun i => (i, s.recWord rpa i))
/-- R195 for a record on a core, beside the context slot `c`. -/
def State.room (s : State) (n : CoreN) (c : CtxN) (x : Ctx) : Bool :=
  let sum (f : Ctx → Nat) : Nat := f x + ((allCtx.filter (· != c)).map fun d => f (s.ctx n d)).sum
  let aff := fld (x.w 6) 26 2
  64 * sum Ctx.vunits ≤ 2048 && sum Ctx.tres ≤ 136 && sum Ctx.mshare ≤ 16
    && !(aff = 1 && isG n) && !(aff = 2 && !isG n) && !(bitAt (x.w 6) 24 && (s.core n).capr ≠ 512)
/-- The state of a context right after the record has been read. -/
def Ctx.start (recd : SMap Word) (rpa : Nat) (t : Table) (resno : BitVec 16) : Ctx :=
  let x : Ctx := { Ctx.zero with recd := recd }
  { x with
    run := .live
    rpa := rpa
    ext := t.ext
    ptroot := t.ptroot
    asid := t.asid
    lw := t.lw
    resno := resno
    a := { Arch.zero with
      pc := BitVec.ofNat 64 (fld (x.w 0) 0 48)
      sr := msets 0 [] [(5, x.w 1), (6, BitVec.ofNat 64 x.taskid), (7, BitVec.ofNat 64 rpa)] } }
/-- Put a context's start in its slot, with the checkpoint of R461, and what a dispatch does besides. -/
def State.putStart (s : State) (n : CoreN) (c : CtxN) (x : Ctx) : State :=
  let s := (s.setCtx n c x.checkpoint).discardCache n
  if x.dbg then { s with pkg := { s.pkg with everDbg := true, dbgCount := min (s.pkg.dbgCount + 1) (2 ^ 32 - 1) } } else s
/-- The residency begins. -/
def State.startRes (s : State) (n : CoreN) (c : CtxN) (x : Ctx) : State :=
  match fld (x.w 0) 60 4 with
  | 3 =>
    let pa := x.savepa
    let s := s.getImage pa
    let a := s.readArch pa x.vunits x.a.pc
    let ps := s.readPend pa x.a.pc a.ctxtime
    let dorm := bitAt (s.rd64 pa) 16
    let x := { x with
      a := a.withPend ps, pend := ps, seq := ps.length, retired := true, reissue := s.reissues x.rpa
      run := if dorm then .dormant else .live }
    (((s.dropReissue x.rpa).putStart n c x).startReload n c).berthServe n
  | 4 => (s.putStart n c { x with run := .dormant }).berthServe n
  | _ => s.putStart n c x
/-- The events of an ending: CKPT with the number of checkpoints not reported before, as at every 256th (R211 gives it no ARG; log entry 85),
and ENDED. -/
def State.postEnded (s : State) (n : CoreN) (c : CtxN) (cks reason kills resno : Nat) : State :=
  (s.postEvt n c.toNat 4 cks).postEvt n c.toNat 3 (putFld (putFld (putFld 0 20 16 resno) 4 16 kills) 0 4 reason).toNat
/-- A DISPATCH command. -/
def State.dispatchCmd (s : State) (n : CoreN) (c : CtxN) (pa : Nat) : State :=
  let old := s.ctx n c
  let s := s.unitGet pa 64
  let recd := s.readRec pa
  if old.resident || !s.room n c { Ctx.zero with recd := recd } then s.postEvt n c.toNat 2 0
  else
    let resno := old.resno + 1
    let s := (s.setCtx n c { old with resno := resno }).postEvt n c.toNat 1 resno.toNat
    let xt := fld (({ Ctx.zero with recd := recd } : Ctx).w 2) 6 46 * 64
    let s := s.unitGet xt 576
    match s.loadTable xt with
    | none => s.postEnded n c 0 6 0 resno.toNat
    | some t => s.startRes n c (Ctx.start recd pa t resno)
/-- DISPATCH (R211). -/
def execDispatch (n : CoreN) (c : CtxN) (pa : PAddr) (s : State) : Out := .next (s.dispatchCmd n c (pa.toNat / 64 * 64))
/-- SLOTS: SLOTTAB from the three-bit fields of ARG. -/
def State.slotsCmd (s : State) (n : CoreN) (arg : Nat) : State :=
  let w := (List.range 16).foldl (fun (w : Word) i => putFld w (4 * i) 3 (arg / 2 ^ (3 * i) % 8)) 0
  s.setCore n { s.core n with slottab := w }
def execSlots (n : CoreN) (arg : PAddr) (s : State) : Out := .next (s.slotsCmd n arg.toNat)
/-- BANKS: the image of BANKASSIGN. -/
def State.banksCmd (s : State) (n : CoreN) (arg : Nat) : State :=
  s.setCore n { s.core n with bankassign := BitVec.ofNat 64 (arg % 2 ^ 48) }
def execBanks (n : CoreN) (arg : PAddr) (s : State) : Out := .next (s.banksCmd n arg.toNat)

/-! ### Commands to a residency (R211, R399, R407) -/

/-- A command acts on the residency it names; else it is answered with STALE. -/
def State.named (s : State) (n : CoreN) (c : CtxN) (resno : BitVec 16) (f : State → State) : State :=
  let x := s.ctx n c
  if x.resident && x.resno == resno then f s else s.postEvt n c.toNat 7 0
/-- PRE-EMPT: at the next checkpoint bundle whose retirement succeeds. -/
def execPreEmpt (n : CoreN) (c : CtxN) (resno : BitVec 16) (s : State) : Out :=
  .next (s.named n c resno fun s => s.askPreempt n c 2)
/-- FORCE: a rollback pre-emption at once, but after a held stop (R407), or once a dispute, queued or served, is settled as a whole (R183; log
entry 99). -/
def State.forceCtx (s : State) (n : CoreN) (c : CtxN) : State :=
  let x := s.ctx n c
  match x.run with
  | .vacant | .ending _ => s
  | .dormant => s.askPreempt n c 3
  | .stopped | .violation => s.setCtx n c { x with forceReq := true }
  | _ => if x.dispute.isSome then s.setCtx n c { x with forceReq := true } else s.beginPreempt n c 3
def execForce (n : CoreN) (c : CtxN) (resno : BitVec 16) (s : State) : Out :=
  .next (s.named n c resno fun s => s.forceCtx n c)
/-- A session that a kill ends (R422): `sub` is the reason. -/
def State.truncTrace (s : State) (n : CoreN) (c : CtxN) (sub : Nat) : State :=
  if s.tracing n c 0 then
    let drop := s.creg (dbgReg n c 0x80)
    (s.trace n c 9 sub (sopName 7 0 (s.ctx n c).a.pc) drop).clrCreg (dbgReg n c 0x60) 1
  else s
/-- An entry as the resumption of its context leaves it: sent afresh (R136, R403). -/
def Entry.again (e : Entry) : Entry :=
  { e with
    reported := false
    got := if e.reported then [] else e.got
    void := e.void && !e.reported
    kind := match e.kind with | .atom op ty d x cmp _ => .atom op ty d x cmp 0 | k => k }
/-- How many stores the replay queue holds; the pieces of one count once (R128). -/
def Ctx.rqStores (x : Ctx) : Nat := (x.rq.map (·.seq)).eraseDups.length
/-- A kill (R132, R230): pound and replay queue go, the store queue still drains, with what has left the replay queue already, and what a refusal held is sent again. -/
def State.killCtx (s : State) (n : CoreN) (c : CtxN) : State :=
  let x := s.ctx n c
  if !x.resident then s
  else
    let why := match s.placedOf n c with | some p => p.killWhy | none => 4
    let s := s.dropArb n c
    let s := s.truncTrace n c (if why = 5 then 1 else if why = 3 then 2 else 3)
    State.dropMons (n := n) <| s.setCtx n c { x.dropWork with
      run := .ending 5
      post := none
      rq := x.rq.filter (·.left)
      killCnt := x.killCnt + { x with rq := x.rq.filter fun e => !e.left }.rqStores
      sq := x.sq.map Entry.again
      sqHold := none
      dispute := none
      preq := none
      forceReq := false }
def execKill (n : CoreN) (c : CtxN) (resno : BitVec 16) (s : State) : Out :=
  .next (s.named n c resno fun s => s.killCtx n c)
/-- The oldest access of a context that is parked, or its fetch: what a wait would be raised for. -/
def Ctx.parked (x : Ctx) : Option Entry :=
  ((x.lq ++ x.pound ++ x.sq).filter fun e => e.park.isSome && !e.woken).foldl (fun b e =>
    match b with
    | none => some e
    | some d => if e.seq < d.seq then some e else some d) none
/-- A context as its stop leaves it: a wait whose event has come is over, and an access that parked while the stop was held raises its wait
now (R399, R403). -/
def State.afterStop (s : State) (n : CoreN) (c : CtxN) : State :=
  let x := s.ctx n c
  match x.run with
  | .waiting => s.setCtx n c x.wake
  | .live =>
    (match x.parked with
     | some e =>
       let lost (p : Piece) : Bool := match p.tr with | none => true | some t => t.marked
       let ptr := (((e.pieces.find? lost).orElse fun _ => e.pieces.head?).map (·.ptr)).getD 0
       s.hold n c ⟨4, 0, 0, ptr, e.pc, e.slotNo, e.k, 0⟩
     | none =>
       match x.fpark, x.fwoken, x.fetchWait with
       | some _, false, some line => s.hold n c ⟨4, 0, 0, BitVec.ofNat 64 (64 * line), x.a.pc, 7, x.a.rep.toNat, 0⟩
       | _, _, _ => s)
  | _ => s
/-- A context that a stop or violation held goes on (R399, R403, R416); a pre-emption that has waited for that follows (R407). -/
def State.resumeCtx (s : State) (n : CoreN) (c : CtxN) : State :=
  let x := s.ctx n c
  let step := x.dbg && bitAt (s.creg (dbgReg n c 0)) 1
  let again := x.lq.any fun e => e.reported && e.isReload
  let y := { x.mapEntries Entry.again with
    run := x.prior
    sqHold := none
    stepReq := step
    stepDue := false
    forceReq := false }
  let s := s.setCtx n c (if again then { y with lq := [] } else y)
  let s := if again then s.startReload n c else s
  let s := if y.rollReq then
      let s := s.rollback n c 4
      s.setCtx n c { s.ctx n c with rollReq := false }
    else s
  let s := s.afterStop n c
  let s := if x.forceReq then s.forceCtx n c else s
  let z := s.ctx n c
  let s := match z.run, z.preq with
    | .dormant, some r => s.askPreempt n c r
    | _, _ => s
  s.berthServe n
/-- RESUME. -/
def execResume (n : CoreN) (c : CtxN) (resno : BitVec 16) (s : State) : Out :=
  .next (s.named n c resno fun s => if (s.ctx n c).held then s.resumeCtx n c else s)

/-! ### The end of a residency (R132, R195, R407) -/

/-- Commands that the context gave to copy engines before a place in program order are outstanding (R125, R354). -/
def State.engineOwes (s : State) (n : CoreN) (c : CtxN) (seq : Nat) : Bool :=
  s.engines.any fun kv => kv.2.issuers.any fun p => match p.2 with
    | .ctx m d q _ _ _ _ _ => m = n.toNat && d = c.toNat && q < seq
    | .super _ => false
/-- Nothing is left to wait for. -/
def Ctx.mayEnd (x : Ctx) : Bool :=
  x.sq.isEmpty && x.rq.isEmpty && x.pound.isEmpty && x.pend.all (·.arrived)
    && x.lq.all fun e => match e.kind with | .pref _ => true | _ => false
/-- Whether a residency may end now. Its write-back, or its implicit TRIGGER, is a release at package scope: it waits for the early-visible
stores that its core holds and for the copy-engine commands of the context as well (R113, R125, R139, R195). A killed one releases nothing. -/
def State.mayEnd (s : State) (n : CoreN) (c : CtxN) (reason : Nat) : Bool :=
  let x := s.ctx n c
  x.mayEnd && (reason = 5 || ((s.heldLines n).isEmpty && !s.engineOwes n c x.seq))
/-- The record as it is written back: BADDR the bundle that issues next, and SREASON 3 after a pre-emption. -/
def Ctx.backRec (x : Ctx) (pre : Bool) : List Byte :=
  let w0 := putFld (x.w 0) 0 48 (fld x.a.pc 0 48)
  (List.range 8).flatMap fun i => leBytes 8 (if i = 0 then (if pre then putFld w0 60 4 3 else w0) else x.w i).toNat
/-- DBGCTL, breakpoints and watchpoints at their reset values (R414). -/
def State.dbgReset (s : State) (n : CoreN) (c : CtxN) : State :=
  [0x00, 0x20, 0x28, 0x30, 0x38, 0x50, 0x58].foldl (fun s o => s.setCreg (dbgReg n c o) (regReset (dbgReg n c o))) s
/-- What a core keeps of a residency goes with it: its place before the switches under way (R53), and its staging (R286; log entry 108). -/
def Core.unbind (k : Core) (c : CtxN) : Core :=
  { k with bankSince := k.bankSince.filter fun v => v.1 % 4 ≠ c.toNat, stage := k.stage.filter fun v => v.1 ≠ c.toNat }
/-- The residency of a context ends, for a reason of R211. -/
def State.endRes (s : State) (n : CoreN) (c : CtxN) (reason : Nat) : State :=
  let x := s.ctx n c
  let pre := reason = 2 || reason = 3 || reason = 7
  let s := s.setCore n (((s.core n).fifoUndo c).unbind c)
  let s := if pre then s.putImage x.savepa (x.saveImage (x.preq = some 0)) else s
  let s := if pre || reason ≤ 1 then s.unitPut x.rpa (x.backRec pre) else s
  let s := if pre && x.reissue then s.mapDie (dieOf n) fun k => { k with reissue := k.reissue ++ [x.rpa] } else s
  let s := if reason = 4 && !s.hasTriggered n c then s.trigger n c else s
  let s := if s.tracing n c 0 then
      (s.trace n c 8 reason (sopName 7 0 x.a.pc) 0).clrCreg (dbgReg n c 0x60) 1
    else s
  let s := (s.dbgReset n c).postEnded n c x.ckCount reason x.killCnt x.resno.toNat
  ((s.setCtx n c { Ctx.zero with resno := x.resno }).dropArb n c).dropMons n
/-- RESIDENCY_END: of the context in focus, once its queues have drained. -/
def execResidencyEnd (s : State) : Out :=
  match s.cx.run with
  | .ending r => if s.mayEnd s.foc.core s.foc.ctx r then .next (s.endRes s.foc.core s.foc.ctx r) else .next s
  | _ => .next s

end Sys2Proof.Machine
end

