-- ==== Sys2Proof/Machine/Debug.lean ====
section
/-! DEFINITION. The debug block of a context slot (R413 to R425): halt, resumption, dump and load, trace sessions, samples. -/

namespace Sys2Proof.Machine

/-- A request refused or ignored: DBGSTAT.ERR. -/
def State.dbgErr (s : State) (n : CoreN) (c : CtxN) : State := s.orCreg (dbgReg n c 8) 8
/-- Acts on a debuggable context; else the request is ignored and sets ERR (R413). -/
def State.dbgOn (s : State) (n : CoreN) (c : CtxN) (f : State → State) : State :=
  if (s.ctx n c).dbg then f s else s.dbgErr n c
def State.dbgBusy (s : State) (n : CoreN) (c : CtxN) : Bool := bitAt (s.creg (dbgReg n c 8)) 4

/-! ### HALT and GO (R415, R416) -/

def State.dbgHalt (s : State) (n : CoreN) (c : CtxN) : State :=
  let x := s.ctx n c
  if x.run = .live then s.setCtx n c { x with haltReq := true } else s.dbgErr n c
/-- DBG_HALT, of the context in focus. -/
def execDbgHalt (s : State) : Out := .next (s.dbgOn s.foc.core s.foc.ctx fun s => s.dbgHalt s.foc.core s.foc.ctx)
/-- STEP, the one stored bit of DBGCTL. -/
def State.dbgStep (s : State) (n : CoreN) (c : CtxN) (step : Bool) : State :=
  s.setCreg (dbgReg n c 0) (if step then 2 else 0)
def State.dbgGo (s : State) (n : CoreN) (c : CtxN) : State :=
  if (s.ctx n c).held && !s.dbgBusy n c then s.resumeCtx n c else s.dbgErr n c
/-- DBG_GO. -/
def execDbgGo (n : CoreN) (c : CtxN) (step : Bool) (s : State) : Out :=
  .next (s.dbgOn n c fun s => (s.dbgStep n c step).dbgGo n c)

/-! ### DUMP and LOAD (R419) -/

def State.dumpPa (s : State) (n : CoreN) (c : CtxN) : Nat := fld (s.creg (dbgReg n c 0x18)) 6 46 * 64
/-- A row of free bits. -/
def State.freeRow (s : State) (i rlen : Nat) : State × RowW :=
  let f := s.freeBytes rlen
  (f.1, ⟨i, 0, 8 * rlen, leNat f.2⟩)
/-- The destinations of a result that has not arrived, whose data is free (R409; log entry 34). -/
def State.lateWrites (s : State) (x : Ctx) (p : Pend) : State × List Write :=
  let one (d : Nat) : State × List Write := let f := s.free; (f.2, [.s d f.1])
  match (x.lq ++ x.sq).find? fun e => e.seq = p.seq with
  | some e =>
    (match e.kind with
     | .ld d _ _ | .tagrd d | .monarm d _ _ | .atom _ _ d _ _ _ => one d
     | .gssnext d q =>
       let f := s.free
       let g := f.2.free
       (g.2, (if d = 0 then [] else [.s d f.1]) ++ if q = 0 then [] else [.s q g.1])
     | .vld d _ _ _ =>
       let f := s.freeBytes 64
       (f.1, [.v d (BitVec.ofNat 512 (leNat f.2))])
     | .tld t k rows rlen _ _ _ _ _ _ =>
       let r := (List.range k).foldl (fun (r : State × List RowW) i =>
         let f := r.1.freeRow i rlen
         (f.1, r.2 ++ [f.2])) (s, [])
       let f := r.1.free
       (f.2, [.tile t r.2 (if k = rows then some (f.1.setWidth 32) else none) (some .none)])
     | _ => (s, []))
  | none =>
    match x.monwait with
    | some m => if m.seq = p.seq && m.d ≠ 0 then one m.d else (s, [])
    | none => (s, [])
/-- The context as a dump shows it: the results due have landed, up to the first in their order that has not arrived, and every other result
in flight is in the log, with free data where it has not arrived. -/
def State.dumpCtx (s : State) (n : CoreN) (c : CtxN) : State × Ctx :=
  let x := s.ctx n c
  let due := (sortPend (x.pend.filter fun p => p.due ≤ x.a.ctxtime.toNat)).takeWhile (·.arrived)
  let y := { due.foldl Ctx.land1 x with pend := x.pend.filter fun p => !due.contains p }
  y.pend.foldl (fun (r : State × Ctx) p =>
    if p.arrived || !p.ws.isEmpty then r
    else
      let w := r.1.lateWrites x p
      (w.1, { r.2 with pend := r.2.pend.map fun q => if q = p then { p with ws := w.2 } else q })) (s, y)
/-- DUMP: the image is written; BUSY until DBG_DUMP_DONE. -/
def State.dbgDump (s : State) (n : CoreN) (c : CtxN) : State :=
  let x := s.ctx n c
  if x.held && !s.dbgBusy n c then
    let r := s.dumpCtx n c
    (r.1.putImage (s.dumpPa n c) (r.2.saveImage (x.prior = .dormant))).orCreg (dbgReg n c 8) 16
  else s.dbgErr n c
def execDbgDump (s : State) : Out := .next (s.dbgOn s.foc.core s.foc.ctx fun s => s.dbgDump s.foc.core s.foc.ctx)
/-- DBG_DUMP_DONE: every byte has been performed. -/
def execDbgDumpDone (s : State) : Out := .next (s.clrCreg (dbgReg s.foc.core s.foc.ctx 8) 16)
/-- The bytes of a piece read as a plain load of the context reads them: none where it is refused. A walk leaves what every walk leaves: the A
bit, the walker's translation, the record of a fault (R29, R32; a V = 0 entry, on which LOAD cannot park, is recorded as unmonitored). With
TAGPOL 01 a tag report gives zeros (R86). -/
def State.reloadPiece (s : State) (n : CoreN) (c : CtxN) (base : Word) (p : Piece) : State × Option (List Byte) :=
  let x := s.ctx n c
  let va := fld p.ptr 0 48
  let rec' (s : State) (kind epa : Nat) (ev : Word) : State × Option (List Byte) :=
    (s.faultRec (dieOf n) 0 kind p.ptr (idBits n c.toNat x.asid) epa ev, none)
  let at' (s : State) (t : Tr) : State × Option (List Byte) :=
    if regionOf t.pa == .ctl || s.fifoMode t.pa then (s, none)
    else
      let s := s.eccRead (t.pa / 64)
      let p := { p with tr := some t }
      match s.homeCheck (x.actor n c) p t false with
      | .ok => (s.l2Touch t.pa t.mt false, some (s.rdBytes t.pa p.len))
      | .report v => (s.homeRec (x.actor n c) 0 p t.pa (.report v), some (List.replicate p.len 0))
      | _ => (s, none)
  if nonCanonical base p.ptr then (s, none)
  else match trExt x.ext x.lw n va p.len needR with
    | .hit t _ => at' s t
    | .denied _ _ => (s, none)
    | .miss =>
      let r := s.walk (clusterOf n) x.asid x.ptroot va needR
      match r.2 with
      | .ok t => at' r.1 (t.tr va)
      | .park epa ev => rec' r.1 1 epa ev
      | .malformed epa ev => rec' r.1 2 epa ev
      | .denied epa ev => rec' r.1 3 epa ev
      | .decode epa ev => rec' r.1 4 epa ev
/-- The bytes of a run, piece by piece up to the first that is refused. -/
def State.reloadBytes (s : State) (n : CoreN) (c : CtxN) (r : Run1) : State × Option (List Byte) :=
  (cutRun r (r.len / 64 + 2) 0).foldl (fun (acc : State × Option (List Byte)) bp =>
    match acc.2 with
    | none => acc
    | some bs =>
      let q := acc.1.reloadPiece n c bp.1 bp.2
      (q.1, q.2.map fun b => bs ++ b)) (s, some [])
/-- The tiles with origin LOAD read again; none where one faults or its fold differs. -/
def State.reloadTiles (s : State) (n : CoreN) (c : CtxN) (a : Arch) : State × Option Arch :=
  a.loads.foldl (fun (acc : State × Option Arch) l =>
    match acc.2 with
    | none => acc
    | some b =>
      let sh := a.shapeOf l.1
      let q := (reloadRuns a [l]).foldl (fun (q : State × Option (List Byte)) r =>
        match q.2 with
        | none => q
        | some x => let y := q.1.reloadBytes n c r; (y.1, y.2.map fun z => x ++ z)) (acc.1, some [])
      (q.1, q.2.bind fun bs => if memFold sh.rlen bs = l.2.2.2.1 then some (b.fillTile l.1 bs none) else none)) (s, some a)
/-- Which writes of the results in flight, in the order of a pending log, are made under escalation. -/
def Ctx.escFlags (x : Ctx) : List Bool :=
  x.pend.flatMap fun p => p.ws.map fun w => match w with
    | .accw _ _ b => b
    | .acc _ _ _ _ _ _ => x.escSeqs.contains p.seq
    | _ => false
/-- LOAD: the state is replaced as a restore replaces it (R410), and the stop stays held. The bundle stands as DONEMASK says, with no transfer or
control operation of it to follow, and the results of escalated writes stand in the log where they stood (log entry 96); its address, and the breakpoints not to be tested again at it (R400), stay. -/
def State.dbgLoad (s : State) (n : CoreN) (c : CtxN) : State :=
  let x := s.ctx n c
  if x.held && !s.dbgBusy n c then
    let pa := s.dumpPa n c
    let s := s.getImage pa
    let r := s.reloadTiles n c (s.readArch pa x.vunits x.a.pc)
    let s := r.1
    match r.2 with
    | none => s.dbgErr n c
    | some a =>
      let ps := (s.readPend pa x.a.pc a.ctxtime).map fun p => { p with seq := x.seq + p.seq }
      s.setCtx n c { x with
        a := { a.withPend ps with cut := x.a.cut }
        pend := ps
        seq := x.seq + ps.length
        escSeqs := ((ps.zip x.escFlags).filter (·.2)).map (·.1.seq)
        lq := x.lq.filter fun e => match e.kind with
          | .ld _ _ _ | .vld _ _ _ _ | .tagrd _ | .monarm _ _ _ | .tld _ _ _ _ _ _ _ _ _ _ => false
          | _ => true
        opened := a.donemask ≠ 0
        done := a.donemask.toNat
        tgt := none
        post := none
        taken := 0
        owed := 0
        csrOld := []
        prior := if bitAt (s.rd64 pa) 16 then .dormant else x.prior }
  else s.dbgErr n c
def execDbgLoad (s : State) : Out := .next (s.dbgOn s.foc.core s.foc.ctx fun s => s.dbgLoad s.foc.core s.foc.ctx)

/-! ### Trace sessions and samples (R420 to R422, R425) -/

/-- TRCCTL written with EN 1: a session opens, or goes on with other classes. -/
def State.trcOpen (s : State) (n : CoreN) (c : CtxN) (v : Word) : State :=
  let r := dbgReg n c 0x60
  let old := s.creg r
  let s := s.setCreg r ((old &&& ~~~0x3F) ||| (v &&& 0x3F) ||| 1)
  if bitAt old 0 then s
  else
    let x := s.ctx n c
    (s.setCreg (dbgReg n c 0x80) 0).trace n c 0 0 (sopName 7 x.a.rep.toNat x.a.pc)
      (putFld (putFld 0 32 32 x.taskid) 0 12 x.queueid)
/-- TRCCTL written with EN 0: an open session ends. -/
def State.trcClose (s : State) (n : CoreN) (c : CtxN) (v : Word) : State :=
  let r := dbgReg n c 0x60
  let x := s.ctx n c
  let s := if s.tracing n c 0 then s.trace n c 8 0 (sopName 7 x.a.rep.toNat x.a.pc) 0 else s
  s.setCreg r ((s.creg r &&& ~~~0x3F) ||| (v &&& 0x3E))
def execTraceSessionOpen (n : CoreN) (c : CtxN) (v : Word) (s : State) : Out := .next (s.dbgOn n c fun s => s.trcOpen n c v)
def execTraceSessionClose (n : CoreN) (c : CtxN) (v : Word) (s : State) : Out := .next (s.dbgOn n c fun s => s.trcClose n c v)
/-- SAMPLE_TICK: PERIOD core cycles have passed on the core in focus. -/
def execSampleTick (s : State) : Out := .next (s.sampleTick s.foc.core)

/-! ### The registers of the block (R413, R414) -/

/-- DBGCTL written: STEP is stored, then HALT, DUMP, LOAD and GO act as set. -/
def State.dbgCtl (s : State) (n : CoreN) (c : CtxN) (v : Word) : State :=
  let s := s.dbgStep n c (bitAt v 1)
  let s := if bitAt v 0 then s.dbgHalt n c else s
  let s := if bitAt v 4 then s.dbgDump n c else s
  let s := if bitAt v 3 then s.dbgLoad n c else s
  if bitAt v 2 then s.dbgGo n c else s
/-- RW fields of the other registers. -/
def dbgMask (off : Nat) : Word :=
  match off with
  | 0x18 => 0xFFFFFFFFFFFC0
  | 0x20 | 0x28 | 0x30 | 0x38 => 0xE000FFFFFFFFFFFD
  | 0x40 | 0x48 => 0xFFFFFFFFFFFF
  | 0x50 | 0x58 => 0xFF
  | 0x68 => 0xFFFFFFFFFF00F
  | 0x78 => 0xFFFFF
  | _ => 0
/-- A write of a register of the block. -/
def State.dbgWrite (s : State) (n : CoreN) (c : CtxN) (off : Nat) (v : Word) : State :=
  s.dbgOn n c fun s =>
    match off with
    | 0x00 => s.dbgCtl n c v
    | 0x08 => if bitAt v 3 then s.clrCreg (dbgReg n c 8) 8 else s
    | 0x60 => if bitAt v 0 then s.trcOpen n c v else s.trcClose n c v
    | o => if dbgMask o = 0 then s else s.setCreg (dbgReg n c o) (v &&& dbgMask o)
/-- DBGSTAT. -/
def State.dbgStat (s : State) (n : CoreN) (c : CtxN) : Word :=
  let x := s.ctx n c
  let b (v : Bool) : Nat := if v then 1 else 0
  putFld (putFld (putFld (s.creg (dbgReg n c 8) &&& 0x18) 7 1 (b x.dbg)) 6 1 (b x.resident)) 5 1 (b x.held)
/-- A read of a register of the block. TRCDROP of a session that has ended stays readable (R422; log entry 72). -/
def State.dbgRead (s : State) (n : CoreN) (c : CtxN) (off : Nat) : Word :=
  if off = 8 then s.dbgStat n c else if (s.ctx n c).dbg || (off = 0x80 && !(s.ctx n c).resident) then s.creg (dbgReg n c off) else 0

end Sys2Proof.Machine
end

