-- ==== Sys2Proof/Machine/Regs.lean ====
section
/-! DEFINITION. Control space (R20): what a write and a read of each register do, for each master, and the steps that are writes
of one register. -/

namespace Sys2Proof.Machine

/-! ### Barrier objects (R116, R339, R342) -/

/-- A WAITP is refused (R342): it waits for the resumption. -/
def State.waitpRefuse (s : State) (n : CoreN) (c : CtxN) (e : Entry) : State :=
  let ptr := (e.pieces.head?.map (·.ptr)).getD 0
  let pa := (firstPa e.pieces).getD 0
  let e' := match e.kind with
    | .waitp q st _ cyc => { e with kind := .waitp q st false cyc }
    | _ => e
  let s := s.setCtx n c ((s.ctx n c).onEntry e fun _ => e')
  if (s.ctx n c).held then s else (s.stopAt n c e' 0x10 2 2 ptr).permRec n c 2 0 ptr pa
/-- A WAITP completes: an acquire at the barrier's scope. -/
def State.waitpDone (s : State) (n : CoreN) (c : CtxN) (e : Entry) : State :=
  let x := s.ctx n c
  (s.setCtx n c { x with lq := x.lq.filter (· ≠ e) }).discardCache n
/-- The waiting WAITPs of a context on an object, against its value. -/
def State.answerCtx (s : State) (n : CoreN) (c : CtxN) (pa : Nat) (w : Word) : State :=
  (s.ctx n c).lq.foldl (fun s e =>
    match e.kind with
    | .waitp q _ true _ =>
      if firstPa e.pieces ≠ some pa then s
      else if !bitAt w 56 then s.waitpRefuse n c e
      else if bitAt w 48 != q then s.waitpDone n c e
      else s
    | _ => s) s
/-- The synchronisation engine answers every waiting WAITP and phase watch on an object. -/
def State.answerBarrier (s : State) (pa : Nat) : State :=
  let w := s.creg pa
  let s := s.ctxs.foldl (fun s kv => s.answerCtx (coreNo (kv.1 / 4)) (ctxNo (kv.1 % 4)) pa w) s
  s.dies.foldl (fun s kv =>
    kv.2.waitl.foldl (fun s h =>
      if h.watch && fld (s.recWord h.rpa 7) 0 52 = pa then s.retest kv.1 h else s) s) s
/-- The value a store leaves in an object. -/
def barStored (v : Word) : Word :=
  let m := v &&& 0x17DFFFF0000FFFF
  let sc := fld v 50 3
  if bitAt v 56 && (v ≠ m || sc = 0 || 3 < sc || fld v 32 16 = 0) then 0 else m
def State.barrierStore (s : State) (pa : Nat) (v : Word) : State := (s.setCreg pa (barStored v)).answerBarrier pa
/-- BARRIER_OBJECT_WRITE. -/
def execBarrierObjectWrite (d : DieN) (i : BitVec 16) (v : Word) (s : State) : Out :=
  .next (s.barrierStore (barReg d.toNat i.toNat) v)
/-- An arrival applied (R116). -/
def arriveWord (w : Word) : Word :=
  let c := fld w 0 16 + 1
  if c % 2 ^ 16 = fld w 32 16 then putFld (putFld w 0 16 0) 48 1 (1 - fld w 48 1) else putFld w 0 16 c

/-! ### Ownership entries (R91) -/

/-- A store to word 0: ignored while STATE is 01. -/
def State.ownWord0 (s : State) (d i : Nat) (v : Word) : State :=
  if fld (s.creg (ownReg d i 1)) 0 2 = 1 then s else s.setCreg (ownReg d i 0) (v &&& 0xFFFFFFFFFF003)
/-- OWNER changes: PREV and EPOCH follow. -/
def ownSet (w : Word) (o : Nat) : Word :=
  putFld (putFld (putFld w 16 16 (fld w 32 16)) 32 16 o) 48 16 (fld w 48 16 + 1)
/-- Whether an entry's page may be enforced. -/
def State.ownOk (s : State) (d i : Nat) : Bool :=
  let w := s.creg (ownReg d i 0)
  let b := ownBase w
  fld w 0 2 ≠ 3 && (regionOf b == .hbm || regionOf b == .llc) && homeDie b = d
    && (s.ownOver b (ownSize w)).all fun e => e = ownReg d i 0
def State.ownWord1 (s : State) (d i : Nat) (v : Word) : State :=
  let r := ownReg d i 1
  let w := s.creg r
  if fld v 0 2 ≠ 1 then s.setCreg r (putFld w 0 2 0)
  else if fld w 0 2 = 1 || s.ownOk d i then s.setCreg r (putFld (ownSet w (fld v 32 16)) 0 2 1)
  else s
def execOwnershipWord0Write (d : DieN) (i : BitVec 16) (v : Word) (s : State) : Out := .next (s.ownWord0 d.toNat i.toNat v)
def execOwnershipWord1Write (d : DieN) (i : BitVec 16) (v : Word) (s : State) : Out := .next (s.ownWord1 d.toNat i.toNat v)

/-! ### Lease checks (R34, R39) -/

/-- The resident context that holds a record. -/
def State.holderOf (s : State) (rpa : Nat) : Option (CoreN × CtxN) :=
  (s.ctxs.find? fun kv => kv.2.resident && kv.2.rpa = rpa).map fun kv => (coreNo (kv.1 / 4), ctxNo (kv.1 % 4))
/-- The die that serves a resident record and its queue. -/
def State.serverOf (s : State) (n : CoreN) (c : CtxN) : Nat × Nat :=
  let q := match s.placedOf n c with | some p => p.held.q | none => (s.ctx n c).queueid
  (q / 512, q)
/-- A holder is asked to leave, forced at once where LEASETO is 0, once it is resident and the log of the die that serves it takes the
decision (R233). -/
def State.revokeAsk (s : State) (d rpa : Nat) : State :=
  match s.holderOf rpa with
  | none => s
  | some (n, c) =>
    let q := s.serverOf n c
    if !s.canLog q.1 then s
    else
      let s := s.mapDie d fun k => { k with unasked := k.unasked.filter (· ≠ rpa) }
      let s := (s.logNow q.1 ⟨1, 1, rpa, q.2, some (n.toNat, c.toNat), 0⟩).qCount q.2 2 1
      if fld (s.creg (dieReg d 0x100028)) 0 32 = 0 then
        ((s.logLate q.1 ⟨2, 0, rpa, q.2, some (n.toNat, c.toNat), 0⟩).qCount q.2 3 1).forceCtx n c
      else s.askPreempt n c 2
/-- The holders of every die that are still to be asked. -/
def State.revokeAsks (s : State) : State :=
  s.dies.foldl (fun s kv => kv.2.unasked.foldl (fun s rpa => s.revokeAsk kv.1 rpa) s) s
/-- Each holder of a lease over a range is to be asked to leave. -/
def State.revokeRange (s : State) (d base len : Nat) : State :=
  let hs := ((s.die d).leases.filter fun l => l.over base len).flatMap (·.holders)
  (hs.foldl (fun s rpa =>
    if (s.die d).revokes.any fun r => r.1 = rpa then s
    else s.mapDie d fun k => { k with revokes := k.revokes ++ [(rpa, s.dieNow d)], unasked := k.unasked ++ [rpa] }) s).revokeAsks
/-- The log of a die has room, or drops: what waited for it follows. -/
def State.logSpace (s : State) (d : Nat) : State := (s.logRoom d).revokeAsks
/-- A write of LEASEREQ. -/
def State.leaseReq (s : State) (d base : Nat) (revoke : Bool) : State :=
  let st := dieReg d 0x100058
  let len := fld (s.creg (dieReg d 0x100060)) 12 36 * 4096
  if bitAt (s.creg st) 0 || len = 0 then s.orCreg st 2
  else
    let s := (s.setDie d { s.die d with check := some (base, len, revoke) }).orCreg st 1
    (if revoke then s.revokeRange d base len else s).leaseSettle d
def execLeaseCheckWait (d : DieN) (base : BitVec 40) (s : State) : Out := .next (s.leaseReq d.toNat (base.toNat * 4096) false)
def execLeaseCheckRevoke (d : DieN) (base : BitVec 40) (s : State) : Out := .next (s.leaseReq d.toNat (base.toNat * 4096) true)
/-- LEASETO_EXPIRY: the synchronisation engine forces the context in focus, whose revoke is LEASETO old. -/
def execLeasetoExpiry (s : State) : Out :=
  let n := s.foc.core
  let c := s.foc.ctx
  let x := s.ctx n c
  let due := x.resident && (List.range 8).any fun d =>
    (s.die d).revokes.any fun r => r.1 = x.rpa && r.2 + fld (s.creg (dieReg d 0x100028)) 0 32 ≤ s.dieNow d
  match x.run with
  | .ending _ => .next s
  | _ =>
    if due && !x.forceReq then
      let q := s.serverOf n c
      .next (((s.logLate q.1 ⟨2, 0, x.rpa, q.2, some (n.toNat, c.toNat), 0⟩).qCount q.2 3 1).forceCtx n c)
    else .next s

/-! ### Sill dies (R61, R81, R82) -/

/-- Bytes of a range go back to zero, and its lines are good (R79: a write of the whole line). -/
def State.zeroRange (s : State) (lo hi : Nat) : State :=
  { s with
    mem := s.mem.filter fun c => !(lo ≤ c.1 && c.1 < hi)
    poison := s.poison.filter fun l => !(lo ≤ 64 * l.1 && 64 * l.1 < hi) }
/-- LLCWIN written: a change of WAYS begins; the ways taken or given back read zero. While BUSY a write is ignored (log entry 64). -/
def State.llcwinWrite (s : State) (i : Nat) (v : Word) : State :=
  let r := sillReg i 0x1000
  let old := fld (s.creg r) 0 4
  let w := fld v 0 4
  if bitAt (s.creg r) 7 || 8 < w || w = old then s
  else
    let b := 0x10000000000 + i * 0x10000000
    let s := { s with llcOld := mset 0 s.llcOld i old }
    (s.zeroRange (b + min w old * 0x1000000) (b + max w old * 0x1000000)).setCreg r (BitVec.ofNat 64 (w + 128))
def execLlcwinResize (i : SillN) (v : Word) (s : State) : Out := .next (s.llcwinWrite i.toNat v)
/-- LLCWIN_RESIZE_DONE: BUSY clears. -/
def execLlcwinResizeDone (i : SillN) (s : State) : Out :=
  .next ({ s with llcOld := mset 0 s.llcOld i.toNat 0 }.clrCreg (sillReg i.toNat 0x1000) 128)
/-- ECCCTL written. -/
def State.eccCtl (s : State) (i : Nat) (v : Word) : State :=
  let s := s.setCreg (sillReg i 0x2000) (v &&& 1)
  if bitAt v 1 then s.setCreg (sillReg i 0x2008) (s.creg (sillReg i 0x2008) &&& 1) else s
def execEccCountClear (i : SillN) (v : Word) (s : State) : Out := .next (s.eccCtl i.toNat v)
/-- REFRESH_ROW: with scrubbing enabled, a line of a row is read through its code, corrected and written back; `symbols` of its
symbols have gone bad since it was last read. Of a line that the L2 or the LLC holds, only the array's copy is corrected. -/
def execRefreshRow (i : SillN) (line : BitVec 30) (symbols : BitVec 3) (s : State) : Out :=
  let l := i.toNat * 2 ^ 30 + line.toNat
  let old := mget 0 s.ecc l
  let s := s.setEcc l (if 8 ≤ old then 8 else min 7 (old + symbols.toNat))
  if bitAt (s.creg (sillReg i.toNat 0x2000)) 0 then
    let s := s.l2Settle l
    .next (s.eccArray l (!s.l2Has l))
  else .next s

/-! ### Verification (R184, R185) -/

/-- VERIFCTL written: a write of QUAR 1 quarantines at once. -/
def State.verifWrite (s : State) (n : CoreN) (v : Word) : State :=
  let r := verReg n 0
  let q := bitAt (s.creg r) 0
  let s := s.setCreg r ((v &&& 0xFF0002) ||| (if q && bitAt v 0 then 1 else 0))
  if bitAt v 0 && !q then s.quarantine n else s
def execVerifctlWrite (n : CoreN) (v : Word) (s : State) : Out := .next (s.verifWrite n v)

/-! ### The distributor's controls (R210) -/

/-- The harts of a die can be started once the die is ready (R433). -/
def State.dieUp (s : State) (d : Nat) : Bool := s.pkg.booted && (s.die d).service ≠ 0
/-- A hart as an image starts on it: where it starts and what its registers hold belong to the image (log entry 74). -/
def State.hartInit (s : State) (i : Nat) : Hart :=
  ⟨Config.freeWord (s.freeCtr + 32 * i), msets 0 [] ((List.range 31).map fun j => (j + 1, Config.freeWord (s.freeCtr + 32 * i + j + 1)))⟩
/-- The requests that came while the harts stood or waited, in order (R207, R210). -/
def State.takeReqs (s : State) (d : Nat) : State :=
  if !s.hartsFree d then s
  else (s.die d).inreq.foldl (fun s r => match r with
    | .spawn q rpa dbg => s.actSpawn q rpa dbg
    | .launch hdr area dbg => s.actLaunch d hdr area dbg) (s.mapDie d fun k => { k with inreq := [] })
/-- The records of a hold area that were held in one way. -/
def Die.heldAs (k : Die) (w : Hold) : List Held := (k.holdArea.filter fun h => h.1 = w).map (·.2)
/-- The refusals of a hold area, which wait for the log. -/
def Die.heldRefused (k : Die) : List (Held × Nat) := k.holdArea.filterMap fun h => match h.1 with | .refused aux => some (h.2, aux) | _ => none
/-- Harts start, on a die that is ready: QUIESCED clears, and what the hold area holds is taken back; its phase watches are tested and placed
again, what waits for the log follows, and what came in the meantime is acted on. -/
def State.hartsStart (s : State) (d : Nat) : State :=
  if !s.dieUp d then s
  else
    let r := dieReg d 0x300000
    let s := s.setCreg r (s.creg r &&& ~~~6)
    let back := ((s.die d).heldAs .waits).map fun h => { h with watch := false, retryAt := 0 }
    let s := s.mapDie d fun k => { k with
      harts := (List.range 4).map fun i => (i, s.hartInit i)
      ready := k.ready ++ k.heldAs .ready
      waitl := k.waitl ++ back
      refq := k.refq ++ k.heldRefused
      holdArea := [] }
    let s := back.foldl (fun s h => s.retest d h) { s with freeCtr := s.freeCtr + 128 }
    ((s.logSpace d).takeReqs d).instsGo
/-- QUIESCE and LOGDROP written; QUIESCE 0 lets a stopped image go on. -/
def State.distQuiesce (s : State) (d : Nat) (v : Word) : State :=
  let r := dieReg d 0x300000
  let s := s.setCreg r ((s.creg r &&& ~~~0xA) ||| (v &&& 0xA))
  let w := s.creg r
  let s := if !bitAt v 1 && bitAt w 0 && bitAt w 2 && (s.die d).accepted then s.hartsStart d else s
  if bitAt v 3 then s.logSpace d else s
def execDistctlQuiesce (d : DieN) (v : Word) (s : State) : Out := .next (s.distQuiesce d.toNat v)
/-- The image at DISTIMG: its header of 128 bytes, and as many bytes as that says, at most 384 KiB. -/
def State.imgAt (s : State) (d : Nat) : List Byte :=
  let base := fld (s.creg (dieReg d 0x300008)) 12 40 * 4096
  s.rdBytes base (min (Config.imgLen (s.rdBytes base 128)) 0x60000)
/-- The image comes through the code, its header first (R78). -/
def State.imgGet (s : State) (d : Nat) : State :=
  let base := fld (s.creg (dieReg d 0x300008)) 12 40 * 4096
  let s := s.unitGet base 128
  s.unitGet base (min (Config.imgLen (s.rdBytes base 128)) 0x60000)
/-- What the management die says of an image: the ERR code of DISTSTAT (log entry 66 for the order of the checks). -/
def State.imgErr (s : State) (d : Nat) : Nat :=
  let base := fld (s.creg (dieReg d 0x300008)) 12 40 * 4096
  let hdr := s.rdBytes base 128
  let old := (s.die d).image
  if regionOf base != .hbm || Config.imgLen hdr < 128 || 0x60000 < Config.imgLen hdr || !Config.imgWell hdr then 4
  else if !Config.sigOk (s.imgAt d) then 1
  else if (Config.imgSvn hdr).toNat < Config.minSvn.toNat then 2
  else if !old.isEmpty && !Config.layoutOk (Config.imgCompat hdr) (Config.imgCompat (old.take 128)) then 3
  else 0
/-- LOAD: acted on while QUIESCED, of a die that is ready (R433; log entry 66). -/
def State.distLoad (s : State) (d : Nat) : State :=
  let r := dieReg d 0x300000
  let st := dieReg d 0x300010
  if !bitAt (s.creg r) 2 || !s.dieUp d then s
  else
    let s := s.imgGet d
    let err := s.imgErr d
    let img := s.imgAt d
    if err ≠ 0 then s.setCreg st (putFld (s.creg st) 0 4 err)
    else
      let s := (s.setCreg st (putFld (putFld (s.creg st) 0 4 0) 32 32 (Config.imgSvn (img.take 128)).toNat)).mapDie d fun k =>
        { k with accepted := true, image := img }
      if bitAt (s.creg r) 0 then s.hartsStart d else s
/-- RUN 1: the harts start on the loaded image. -/
def State.distRun (s : State) (d : Nat) : State :=
  let r := dieReg d 0x300000
  let s := s.orCreg r 1
  if bitAt (s.creg r) 2 && (s.die d).accepted then s.hartsStart d else s
/-- DISTCTL_RUN, of the die in focus. -/
def execDistctlRun (s : State) : Out := .next (s.distRun (dieOf s.foc.core))
/-- Whether the distributor waits for the answer to an offer of its own. -/
def Die.asking (k : Die) (d : Nat) : Bool := !k.remote.isEmpty || k.offers.any fun p => p.held.q / 512 = d
/-- DIST_QUIESCED: the harts of the die in focus have finished the decision they were making, and written what they hold to the hold
area. -/
def execDistQuiesced (s : State) : Out :=
  let d := dieOf s.foc.core
  let r := dieReg d 0x300000
  if bitAt (s.creg r) 1 && s.hartsRun d && !(s.die d).asking d then
    .next ((s.mapDie d fun k => { k with
      holdArea := k.holdArea ++ k.ready.map (fun h => (.ready, h)) ++ k.waitl.map (fun h => (.waits, h))
        ++ k.refq.map fun h => (.refused h.2, h.1)
      ready := []
      waitl := []
      refq := [] }).orCreg r 4)
  else .next s
/-- DISTCTL written as a register: a LOAD acts while QUIESCED still is 1, and RUN 1
with QUIESCE 0 then lets stopped harts go on, on the image accepted last (R210). -/
def State.distCtl (s : State) (d : Nat) (v : Word) : State :=
  let r := dieReg d 0x300000
  let s := s.setCreg r ((s.creg r &&& ~~~0xB) ||| (v &&& 0xB))
  let s := if bitAt v 4 then s.distLoad d else s
  let w := s.creg r
  let s := if bitAt w 0 && !bitAt v 1 && bitAt w 2 && (s.die d).accepted then s.hartsStart d else s
  if bitAt v 3 then s.logSpace d else s
/-- DLOGTAIL written: kept records follow as there is room. -/
def State.dlogTail (s : State) (d : Nat) (v : Word) : State :=
  (s.setCreg (dieReg d 0x300030) (v &&& 0xFFFFF)).logSpace d
def execDlogtailWrite (d : DieN) (v : Word) (s : State) : Out := .next (s.dlogTail d.toNat v)
/-- A DISPCMD word (R211). -/
def State.dispCmd (s : State) (n : CoreN) (v : Word) : State :=
  let c := ctxNo (fld v 58 2)
  let arg := fld v 0 52
  let res : BitVec 16 := v.setWidth 16
  match fld v 60 4 with
  | 1 => s.dispatchCmd n c (arg / 64 * 64)
  | 2 => s.named n c res fun s => s.askPreempt n c 2
  | 3 => s.named n c res fun s => s.forceCtx n c
  | 4 => s.named n c res fun s => s.killCtx n c
  | 5 => s.named n c res fun s => if (s.ctx n c).held then s.resumeCtx n c else s
  | 6 => s.slotsCmd n arg
  | 7 => s.banksCmd n arg
  | _ => s

/-! ### Copy engines' registers (R352) -/

/-- Whether a master may write STOPPED and SKIP of an engine. -/
def ceMaster (e : Nat) (w : Master) : Bool :=
  match w with
  | .host _ => true
  | .hart d => d.toNat = e / 16
  | _ => false
/-- The issuer that a writer of CETAIL becomes; `seq` is the place of a context's store. -/
def State.issuerOf (s : State) (w : Master) (seq : Nat) : Option Issuer :=
  match w with
  | .ctx n c =>
    let x := s.ctx n c
    some (.ctx n.toNat c.toNat seq x.asid x.ptroot x.ownid x.guard x.dbg)
  | .hart _ => some (.super false)
  | .host _ => some (.super true)
  | _ => none
def State.ceSize (s : State) (e : Nat) : Nat := 2 ^ (fld (s.creg (ceReg e 0)) 0 4 + 4)
def State.ceHead (s : State) (e : Nat) : Nat := fld (s.creg (ceReg e 8)) 0 20
def State.ceTail (s : State) (e : Nat) : Nat := fld (s.creg (ceReg e 16)) 0 20
/-- IDLE: the ring is empty. -/
def State.ceIdle (s : State) (e : Nat) : State :=
  let st := ceReg e 24
  s.setCreg st (putFld (s.creg st) 7 1 (if s.ceHead e = s.ceTail e then 1 else 0))
/-- CETAIL written: moved forward, it submits descriptors. -/
def State.ceTailWrite (s : State) (e : Nat) (w : Master) (seq : Nat) (v : Word) : State :=
  let size := s.ceSize e
  let h := s.ceHead e
  let old := (s.ceTail e + size - h) % size
  let t := fld v 0 20
  let new := (t + size - h) % size
  match s.issuerOf w seq with
  | none => s
  | some i =>
    if size ≤ t || new ≤ old then s
    else
      let k := s.engine e
      let is := (List.range (new - old)).map fun j => ((h + old + j) % size, i)
      ((s.setEngine e { k with issuers := k.issuers ++ is }).setCreg (ceReg e 16) (BitVec.ofNat 64 t)).ceIdle e
/-- CESTAT.STOPPED cleared: the stopped descriptor goes on. -/
def State.ceResume (s : State) (e : Nat) (w : Master) : State :=
  let st := ceReg e 24
  if ceMaster e w then s.setCreg st (putFld (putFld (s.creg st) 6 1 0) 8 8 0) else s

/-! ### The register map (R7, R8, R20) -/

/-- A write of a register by a master, performed by `now`: a hart's, to a die at whose mailbox a write of its own die waits, waits behind that
(R207). -/
def State.behindMail (s : State) (w : Master) (pa : Nat) (v : Word) (now : State → State) : State :=
  match w with
  | .hart d =>
    if s.outWaits d.toNat (homeDie pa) then s.mapDie d.toNat fun k => { k with outbox := k.outbox ++ [(homeDie pa, pa, v)] } else now s
  | _ => now s
/-- RW fields of the registers that a write simply stores, by offset in a compute die's block. -/
def dieMask (d off : Nat) : Word :=
  if off = 0x100010 || off = 0x100030 || off = 0x300020 then 0xFFFFFFFFFF00F
  else if off = 0x100020 || off = 0x100040 then 0xFFFFF
  else if off = 0x100028 then 0xFFFFFFFF
  else if off = 0x100060 then 0xFFFFFFFFF000
  else if 0x200000 ≤ off && off < 0x204000 then
    (match off % 0x40 with | 0x08 => 0xFFFF | 0x10 => 0xFFFFFFFFFFFFFFFF | _ => 0)
  else if off = 0x300008 then 0xFFFFFFFFFF000
  else if 0x310000 ≤ off && off < 0x311000 then 0xFFFFFFFFFFF03
  else if 0x320000 ≤ off && off < 0x320800 then
    (match off % 32 with | 16 => 0xFFFF | 24 => 0xFFFFFFFF | _ => 0xFFFFFFFFFFFFFFFF)
  else if 0x580000 ≤ off && off < 0x588000 then
    (let o := off % 0x80
     if o < 0x20 then 0x1FFF else if o < 0x40 then 0xFFFFFFFFFFFFFFFF else if o = 0x40 then 0xFFFFFFFF else 0)
  else if d = 0 && 0x700100 ≤ off && off < 0x700200 then 0x8787878787878787
  else 0
/-- What a register access comes to: done, or refused for its master (R92). -/
inductive RegRes where
  | ok
  | port
  deriving DecidableEq, Repr
/-- The core whose block of `size` bytes holds an offset. -/
def blockCore (d off base size : Nat) : CoreN := coreNo (256 * d + (off - base) / size)
/-- PWRCAP (R432). -/
def State.pwrcap (s : State) (v : Word) : State :=
  s.setCreg (dieReg 0 0x700010) (BitVec.ofNat 64 (max 1500 (min 4000 (fld v 0 16))))
/-- MODID, until it is locked. -/
def State.modid (s : State) (v : Word) : State :=
  let r := dieReg 0 0x700000
  if bitAt (s.creg r) 8 then s else s.setCreg r (v &&& 0x1FF)
def execModidWrite (v : Word) (s : State) : Out := .next (s.modid v)
def execPwrcapWrite (v : Word) (s : State) : Out := .next (s.pwrcap v)
/-- FAULTTAIL and VIOLTAIL: overflow clears. -/
def State.faultTail (s : State) (d : Nat) (v : Word) : State :=
  (s.setCreg (dieReg d 0x100020) (v &&& 0xFFFFF)).clrCreg (dieReg d 0x100008) 2
def State.violTail (s : State) (d : Nat) (v : Word) : State :=
  (s.setCreg (dieReg d 0x100040) (v &&& 0xFFFFF)).clrCreg (dieReg d 0x100048) 1
def execFaulttailWrite (d : DieN) (v : Word) (s : State) : Out := .next (s.faultTail d.toNat v)
def execVioltailWrite (d : DieN) (v : Word) (s : State) : Out := .next (s.violTail d.toNat v)
/-- WALKINV. -/
def State.walkinvWrite (s : State) (d : Nat) (v : Word) : State :=
  let op : BitVec 3 := v.extractLsb' 0 3
  if op = 0 || 3 < op.toNat then s else s.walkinv d op (v.extractLsb' 48 16) (fld v 12 36)
/-- Writes of an engine's block. -/
def State.ceWrite (s : State) (e off : Nat) (w : Master) (seq : Nat) (v : Word) : State :=
  match off with
  | 0x00 =>
    let free := bitAt (s.creg (ceReg e 24)) 7 && s.ceHead e = s.ceTail e
    s.setCreg (ceReg e 0) ((v &&& 0xFFFFFFFFFF000) ||| ((if free then v else s.creg (ceReg e 0)) &&& 0xF))
  | 0x10 => s.ceTailWrite e w seq v
  | _ => s
/-- A write of a register of a compute die's block; writes of CESTAT belong to chapter 13's engine (`State.regWrite`). R184 quarantines when a
score reaches QTHR; of a write that stores such a score it says nothing: the model tests the threshold where a score rises (log entry
83). -/
def State.dieWrite (s : State) (w : Master) (seq d off : Nat) (v : Word) : State × RegRes :=
  let pa := dieReg d off
  let ok (s : State) : State × RegRes := (s, .ok)
  if off = 0x100000 then ok (s.walkinvWrite d v)
  else if off = 0x100020 then ok (s.faultTail d v)
  else if off = 0x100040 then ok (s.violTail d v)
  else if off = 0x100050 then ok (s.leaseReq d (fld v 12 40 * 4096) (bitAt v 0))
  else if off = 0x100058 then ok (if bitAt v 1 then s.clrCreg pa 2 else s)
  else if 0x200000 ≤ off && off < 0x204000 && off % 0x40 = 0 then ok (s.verifWrite (blockCore d off 0x200000 0x40) v)
  else if off = 0x300000 then ok (s.distCtl d v)
  else if off = 0x300030 then ok (s.dlogTail d v)
  else if off = 0x300038 then
    (match w with
     | .hart e =>
       if e.toNat = d then (s, .port)
       else if fld v 60 4 = 0 then ok s
       else ok (s.mailWord e.toNat d v)
     | _ => (s, .port))
  else if 0x400000 ≤ off && off < 0x400800 then
    (match w with
     | .hart e => if e.toNat = d then ok (s.dispCmd (blockCore d off 0x400000 8) v) else (s, .port)
     | _ => (s, .port))
  else if 0x500000 ≤ off && off < 0x580000 then
    ok (s.dbgWrite (blockCore d off 0x500000 0x800) (ctxNo (off % 0x800 / 0x200)) (off % 0x200) v)
  else if 0x600000 ≤ off && off < 0x600400 then ok (s.ceWrite (16 * d + (off - 0x600000) / 0x40) (off % 0x40) w seq v)
  else if d = 0 && off = 0x700000 then ok (s.modid v)
  else if d = 0 && off = 0x700010 then ok (s.pwrcap v)
  else if d = 0 && 0x700100 ≤ off && off < 0x700200 && w ≠ .firmware then ok s
  else if 0x6000000 ≤ off && off < 0x6080000 then ok (s.barrierStore pa v)
  else if 0x8000000 ≤ off && off < 0x8100000 then
    (let i := (off - 0x8000000) / 16
     ok (if off % 16 = 0 then s.ownWord0 d i v else s.ownWord1 d i v))
  else if dieMask d off = 0 then ok s
  else ok (s.setCreg pa (v &&& dieMask d off))
/-- DISTCTL_LOAD: a master writes DISTCTL with LOAD 1. -/
def execDistctlLoad (d : DieN) (w : Master) (v : Word) (s : State) : Out :=
  .next (s.behindMail w (dieReg d.toNat 0x300000) (v ||| 0x10) fun s => (s.dieWrite w 0 d.toNat 0x300000 (v ||| 0x10)).1)
/-- A write of a register of a sill die's block. -/
def State.sillWrite (s : State) (i off : Nat) (v : Word) : State :=
  match off with
  | 0x1000 => s.llcwinWrite i v
  | 0x2000 => s.eccCtl i v
  | 0x2008 => if bitAt v 0 then s.clrCreg (sillReg i 0x2008) 1 else s
  | _ => s
/-- A read of a register; an engine's, a mailbox's or an event queue's read by a master not entitled to it is refused. -/
def State.regRead (s : State) (pa : Nat) : Word × RegRes :=
  let o := pa - ctlBase
  let d := o / 0x10000000
  let off := o % 0x10000000
  if 0x80000000 ≤ o then (s.creg pa, .ok)
  else if 0x200000 ≤ off && off < 0x204000 && off % 0x40 = 0x18 then (s.creg pa &&& 0xFFFFF, .ok)
  else if off = 0x300018 || off = 0x300040 then (0, .port)
  else if off = 0x300010 then (putFld (s.creg pa) 16 16 (s.polled d), .ok)
  else if off = 0x100000 || off = 0x100050 || off = 0x300038 || (0x400000 ≤ off && off < 0x400800) then (0, .ok)
  else if 0x500000 ≤ off && off < 0x580000 then
    (s.dbgRead (blockCore d off 0x500000 0x800) (ctxNo (off % 0x800 / 0x200)) (off % 0x200), .ok)
  else (s.creg pa, .ok)

end Sys2Proof.Machine
end

