-- ==== Sys2Proof/Machine/CopyEngine.lean ====
section
/-! DEFINITION. The copy engines (R34, R35, R57, R76, R352 to R355): a descriptor's operands, its accesses, and the four operations;
then a write of any control-space register. -/

namespace Sys2Proof.Machine

/-! ### Who an engine acts for -/

/-- What the home checks a descriptor's accesses against. The records of a descriptor that a supervisor has issued name core 0 of the
cluster, context 0 and ASID 0 (log entry 65). -/
def ceActor (e : Nat) (phys : Bool) (i : Issuer) : Actor :=
  let v : Viol := ⟨0, 1, 0, 0, 0, e % 4, idBits (coreNo (64 * (e / 4))) 0 0, 0, 0, 0, 0⟩
  match i with
  | .super _ => ⟨e / 16, 2, none, v⟩
  | .ctx n c _ asid _ own guard _ =>
    ⟨e / 16, if phys then 2 else fld guard 2 2, some own, { v with ids := idBits (coreNo n) c asid }⟩
/-- The engine stops at a violation of a class. -/
def State.ceStop (s : State) (e cls : Nat) : State :=
  let st := ceReg e 24
  s.setCreg st (putFld (putFld (s.creg st) 6 1 1) 8 8 cls)

/-! ### Pushes into a FIFO bank (R50, R51) -/

/-- Element bytes of the FIFO bank at an address. -/
def State.fifoEs (s : State) (pa : Nat) : Nat := fifoEsize (s.core (spadAt pa).1) (spadAt pa).2
/-- Whether a push of so many bytes finds room. -/
def State.fifoRoom (s : State) (pa len : Nat) : Bool :=
  let k := s.core (spadAt pa).1
  let b := (spadAt pa).2
  (mget Fifo.zero k.fifo b).q.length + len / s.fifoEs pa ≤ fifoCap k b
/-- Bytes cut into entries. -/
def cutEntries (es : Nat) : Nat → List Byte → List (List Byte)
  | 0, _ => []
  | fuel + 1, bs => if bs.isEmpty then [] else bs.take es :: cutEntries es fuel (bs.drop es)
/-- Entries pushed in ascending address order. -/
def State.fifoPush (s : State) (pa : Nat) (bs : List Byte) : State :=
  let n := (spadAt pa).1
  let b := (spadAt pa).2
  let k := s.core n
  let q := mget Fifo.zero k.fifo b
  s.setCore n { k with fifo := mset Fifo.zero k.fifo b { q with q := q.q ++ cutEntries (s.fifoEs pa) (bs.length + 1) bs } }

/-! ### One access of an engine -/

/-- What an access of an engine comes to: it may be performed, or after a tag report counts as performed without an effect (R86: a load
gives zeros, a store is not performed); it waits, the engine has stopped, or it met poison. -/
inductive CeAcc where
  | ok (t : Tr) (void : Bool)
  | wait
  | stop
  | poison
  deriving DecidableEq, Repr

/-- The piece at a pointer has its translation: it is parked no longer. -/
def Engine.unpark (k : Engine) (ptr : Word) : Engine :=
  if k.parkAt = ptr then { k with park := none, woken := false, unmon := false } else k
/-- Translation (R354). A piece that parks again posts no second record (R30); one that found no monitor free walks again at the engine's
next step (log entry 60). -/
def State.ceTr (s : State) (e : Nat) (i : Issuer) (phys : Bool) (base ptr : Word) (q : Need) : State × CeAcc :=
  if phys then (s, .ok ⟨ptr.toNat, 0, false, 0, false, false⟩ false)
  else match i with
    | .super _ => (s.ceStop e 2, .stop)
    | .ctx n _ _ asid root _ _ _ =>
      if nonCanonical base ptr then
        ((s.violRec (e / 16) { (ceActor e phys i).viol with cls := 2, acc := q.acc, ptr := ptr }).ceStop e 2, .stop)
      else
        let cl := e / 4
        let va := fld ptr 0 48
        let r := s.walk cl asid root va q
        let ids := idBits (coreNo n) 0 asid
        let fault (s : State) (kind epa : Nat) (ev : Word) : State := s.faultRec (e / 16) q.acc kind ptr ids epa ev
        match r.2 with
        | .ok t => (r.1.setEngine e ((r.1.engine e).unpark ptr), .ok (t.tr va) false)
        | .park epa ev =>
          let a := r.1.armWalk cl (epa / 64)
          let k := (a.1.engine e)
          let again := k.parkAt = ptr
          if a.2 then
            let s := if again && k.park.isSome then a.1 else fault a.1 0 epa ev
            (s.setEngine e { s.engine e with park := some (epa / 64), parkAt := ptr, woken := false, unmon := false }, .wait)
          else
            let s := if again && k.unmon then a.1 else fault a.1 1 epa ev
            (s.setEngine e { s.engine e with park := none, parkAt := ptr, woken := false, unmon := true }, .wait)
        | .malformed epa ev => ((fault r.1 2 epa ev).ceStop e 2, .stop)
        | .denied epa ev => ((fault r.1 3 epa ev).ceStop e 2, .stop)
        | .decode epa ev => ((fault r.1 4 epa ev).ceStop e 3, .stop)
/-- A write into a FIFO bank, where the offset is ignored (R50), over the page ends it crosses: how many of its bytes reach that bank, and
what the translation of a later page comes to, if that is not done. -/
def State.ceFifo (s : State) (e : Nat) (i : Issuer) (phys : Bool) (base : Word) (bank : CoreN × Nat) : Nat → Word → Nat → State × Nat × Option CeAcc
  | 0, _, cap => (s, cap, none)
  | fuel + 1, ptr, cap =>
    let n := 4096 - ptr.toNat % 4096
    if cap ≤ n then (s, cap, none)
    else
      let r := s.ceTr e i phys base (ptr + BitVec.ofNat 64 n) needW
      match r.2 with
      | .ok t _ =>
        if s.fifoMode t.pa && spadAt t.pa = bank then
          let z := State.ceFifo r.1 e i phys base bank fuel (ptr + BitVec.ofNat 64 n) (cap - n)
          (z.1, n + z.2.1, z.2.2)
        else (r.1, n, none)
      | x => (r.1, cap, some x)
/-- An access within one line, or into a FIFO bank, checked at its home. -/
def State.ceAccess (s : State) (e : Nat) (i : Issuer) (phys : Bool) (base ptr : Word) (len : Nat) (wr : Bool) : State × CeAcc :=
  let q := if wr then needW else needR
  let r := s.ceTr e i phys base ptr q
  match r.2 with
  | .ok t _ =>
    let s := r.1
    let a := ceActor e phys i
    let p : Piece := ⟨ptr, len, 0, some t⟩
    let decode (s : State) : State × CeAcc := ((s.homeRec a q.acc p t.pa .decode).ceStop e 3, .stop)
    if regionOf t.pa == .ctl then decode s
    else if s.peerDead t.pa then (s, .wait)
    else if regionOf t.pa == .spad && bankBusy (s.core (spadAt t.pa).1) (spadAt t.pa).2 then (s, .wait)
    else if s.fifoMode t.pa then
      if !wr then decode s
      else
        let f := s.ceFifo e i phys base (spadAt t.pa) (len / 4096 + 1) ptr len
        match f.2.2 with
        | some x => (f.1, x)
        | none =>
          if f.2.1 ≠ len || len % s.fifoEs t.pa ≠ 0 then decode f.1 else if s.fifoRoom t.pa len then (f.1, .ok t false) else (f.1, .wait)
    else
      let s := if wr && len = 64 then s else s.eccRead (t.pa / 64)
      match s.homeCheck a p t wr with
      | .ok => (if wr then s else s.l2Touch t.pa t.mt false, .ok t false)
      | .report v => (s.homeRec a q.acc p t.pa (.report v), .ok t true)
      | .poison => (s, .poison)
      | .decode => decode s
      | .tag v => ((s.homeRec a q.acc p t.pa (.tag v)).ceStop e 0, .stop)
      | .owner pa o => ((s.homeRec a q.acc p t.pa (.owner pa o)).ceStop e 1, .stop)
  | x => (r.1, x)
/-- Bytes written within a line, unless the write counts as performed without an effect. -/
def State.cePut (s : State) (e : Nat) (i : Issuer) (phys : Bool) (ptr : Word) (t : Tr) (void : Bool) (bs : List Byte) : State :=
  if void then s
  else if s.fifoMode t.pa then s.fifoPush t.pa bs else s.homePiece (ceActor e phys i) ⟨ptr, bs.length, 0, some t⟩ t bs

/-! ### Runs of bytes -/

/-- Where a run stands: finished, or stopped before the byte it reached. -/
inductive CeRun where
  | done
  | wait
  | stop
  | poison
  deriving DecidableEq, Repr
def CeAcc.run : CeAcc → CeRun
  | .ok _ _ => .done | .wait => .wait | .stop => .stop | .poison => .poison
/-- A run of bytes read; its lines in turn. Where it stops, the bytes before the line it stops at. -/
def State.ceRead (s : State) (e : Nat) (i : Issuer) (phys : Bool) (base ptr : Word) : Nat → Nat → State × CeRun × List Byte
  | 0, _ => (s, .done, [])
  | fuel + 1, len =>
    if len = 0 then (s, .done, [])
    else
      let n := min len (64 - ptr.toNat % 64)
      let r := s.ceAccess e i phys base ptr n false
      match r.2 with
      | .ok t void =>
        let bs := if void then List.replicate n 0 else r.1.rdBytes t.pa n
        let x := State.ceRead r.1 e i phys base (ptr + BitVec.ofNat 64 n) fuel (len - n)
        (x.1, x.2.1, bs ++ x.2.2)
      | x => (r.1, x.run, [])
/-- A run of bytes written. -/
def State.ceWriteRun (s : State) (e : Nat) (i : Issuer) (phys : Bool) (base ptr : Word) : Nat → List Byte → State × CeRun
  | 0, _ => (s, .done)
  | fuel + 1, bs =>
    if bs.isEmpty then (s, .done)
    else
      let n := min bs.length (64 - ptr.toNat % 64)
      let r := s.ceAccess e i phys base ptr n true
      match r.2 with
      | .ok t void => State.ceWriteRun (r.1.cePut e i phys ptr t void (bs.take n)) e i phys base (ptr + BitVec.ofNat 64 n) fuel (bs.drop n)
      | x => (r.1, x.run)

/-! ### Descriptors (R353) -/

/-- A descriptor's eight words, and where it lies. -/
structure Desc where
  w : List Word
  deriving DecidableEq, Repr
def Desc.at (d : Desc) (i : Nat) : Word := d.w.getD i 0
def Desc.op (d : Desc) : Nat := fld (d.at 0) 60 4
def Desc.phys (d : Desc) : Bool := bitAt (d.at 0) 59
def Desc.count (d : Desc) : Nat := fld (d.at 0) 0 32
def Desc.rows (d : Desc) : Nat := fld (d.at 0) 40 5 + 1
def Desc.rlen (d : Desc) : Nat := fld (d.at 0) 32 8
def Desc.img (d : Desc) : Nat := d.rows * d.rlen
/-- A signed 32-bit field as a pointer step. -/
def stride32 (w : Word) (lo : Nat) : Word := (w.extractLsb' lo 32).signExtend 64
def hostOrHbm (pa : Nat) : Bool := regionOf pa == .host || regionOf pa == .hbm
/-- What R35 refuses of a MIGRATE. -/
def Desc.migBad (d : Desc) : Bool :=
  let a := (d.at 1).toNat
  let b := (d.at 2).toNat
  let n := d.count
  !d.phys || n = 0 || n % 4096 ≠ 0 || a % 4096 ≠ 0 || b % 4096 ≠ 0 || !hostOrHbm a || !hostOrHbm b || regionOf a == regionOf b
    || regionOf (a + n - 1) != regionOf a || regionOf (b + n - 1) != regionOf b
/-- A descriptor that is refused (R353). -/
def Desc.bad (d : Desc) (i : Issuer) : Bool :=
  let w := d.at 0
  let op := d.op
  op = 0 || 4 < op || fld w 45 9 ≠ 0 || (d.at 6).toNat % 8 ≠ 0
    || (op ≠ 3 && bitAt w 58) || (op ≠ 2 && fld w 54 4 ≠ 0)
    || (op = 1 && d.at 5 ≠ 0) || ((op ≠ 2 || !d.phys) && d.at 7 ≠ 0)
    || (op = 2 && (7 < fld w 54 4 || d.rlen < 4 || 144 < d.rlen || d.rlen % 4 ≠ 0 || fld (d.at 4) 0 6 ≠ 0 || fld (d.at 4) 32 6 ≠ 0
        || (!d.phys && (d.at 5 ≠ 0 || fld (d.at 1) 0 6 ≠ 0 || fld (d.at 2) 0 6 ≠ 0))))
    || (op = 3 && d.migBad)
    || (op = 4 && (d.count % 8 ≠ 0 || (d.at 2).toNat % 8 ≠ 0 || 0x80000 ≤ (d.at 2).toNat || 0x80000 < (d.at 2).toNat + d.count))
    || (match i with | .ctx _ _ _ _ _ _ _ _ => d.phys | .super _ => !d.phys)

/-! ### The ring -/

/-- Where the descriptor at HEAD lies. -/
def State.ceDescPa (s : State) (e : Nat) : Nat := fld (s.creg (ceReg e 0)) 12 40 * 4096 + 64 * s.ceHead e
def State.ceDesc (s : State) (e : Nat) : Desc := ⟨(List.range 8).map fun j => s.rd64 (s.ceDescPa e + 8 * j)⟩
def State.ceIssuer (s : State) (e : Nat) : Issuer :=
  (((s.engine e).issuers.find? fun p => p.1 = s.ceHead e).map (·.2)).getD (.super false)
def State.ceBytes (s : State) (e : Nat) : Nat := fld (s.creg (ceReg e 32)) 0 32
/-- Progress of the descriptor at HEAD. -/
def State.ceProg (s : State) (e bytes : Nat) : State :=
  s.setCreg (ceReg e 32) (putFld (putFld 0 32 20 (s.ceHead e)) 0 32 bytes)
def State.mapEngine (s : State) (e : Nat) (f : Engine → Engine) : State := s.setEngine e (f (s.engine e))
/-- The descriptor at HEAD is over with a status, but for its completion word. -/
def State.ceFin (s : State) (e status : Nat) : State := s.mapEngine e fun k => { k with fin := some status }
/-- The completion word (R355), and the next descriptor. -/
def State.ceFinish (s : State) (e : Nat) : State :=
  match (s.engine e).fin with
  | none => s
  | some status =>
    let i := s.ceIssuer e
    let d := s.ceDesc e
    let h := s.ceHead e
    let next (s : State) : State :=
      let s := s.mapEngine e fun k => { k with
        issuers := k.issuers.filter fun p => p.1 ≠ h
        park := none, parkAt := 0, woken := false, unmon := false, leaseAsked := false, fin := none, images := 0, out := none }
      let s := s.setCreg (ceReg e 8) (BitVec.ofNat 64 ((h + 1) % s.ceSize e))
      let st := ceReg e 24
      ((s.setCreg st (putFld (s.creg st) 0 4 status)).ceProg e 0).ceIdle e
    if d.at 6 = 0 then next s
    else
      let r := s.ceAccess e i d.phys (d.at 6) (d.at 6) 8 true
      match r.2 with
      | .ok t void => next (r.1.cePut e i d.phys (d.at 6) t void (leBytes 8 (putFld (putFld 0 60 4 status) 0 32 (s.ceBytes e)).toNat))
      | .wait => r.1
      | .stop => r.1
      | .poison => r.1.ceStop e 2
/-- A run's outcome for its descriptor: on poison the command stops with its status. -/
def State.ceAfter (s : State) (e : Nat) (r : CeRun) : State :=
  match r with
  | .poison => (s.ceFin e 3).ceFinish e
  | _ => s
/-- Whether the engine works on: not stopped, not parked. -/
def State.ceRuns (s : State) (e : Nat) : Bool :=
  let k := s.engine e
  !bitAt (s.creg (ceReg e 24)) 6 && s.ceHead e ≠ s.ceTail e && (k.park.isNone || k.woken)
/-- The descriptor at HEAD, read through the code, if it is the event's operation; one that is refused ends at once. -/
def State.ceDo (s : State) (e op : Nat) (f : State → Issuer → Desc → State) : State :=
  if !s.ceRuns e then s
  else
    let s := s.unitGet (s.ceDescPa e) 64
    let i := s.ceIssuer e
    let d := s.ceDesc e
    if (s.engine e).fin.isSome then s.ceFinish e
    else if d.bad i then ((s.ceProg e 0).ceFin e 4).ceFinish e
    else if d.op ≠ op then s
    else f s i d

/-! ### COPY -/

/-- A poisoned source line: the destination line at a pointer, checked as a write of its bytes, becomes poisoned, and the command stops
(R79), which is a copy-engine write to it (R345). A FIFO bank has no destination line. -/
def State.cePoison (s : State) (e : Nat) (i : Issuer) (phys : Bool) (base ptr : Word) (len : Nat) : State × CeRun :=
  let fifo : Option Nat := match (s.ceTr e i phys base ptr needW).2 with
    | .ok t _ => if s.fifoMode t.pa then some t.pa else none
    | _ => none
  match fifo with
  | some pa => (s, if s.peerDead pa || bankBusy (s.core (spadAt pa).1) (spadAt pa).2 then .wait else .poison)
  | none =>
    let r := s.ceAccess e i phys base ptr (min len (64 - ptr.toNat % 64)) true
    match r.2 with
    | .ok t void => (if void then r.1 else (r.1.setPoison (t.pa / 64) true).wakeLine (t.pa / 64), .poison)
    | x => (r.1, x.run)
/-- Bytes of a destination that one write takes: up to the end of its line; in a FIFO bank, where the offset is ignored, up to `cap` (R50). -/
def State.cePace (s : State) (e : Nat) (i : Issuer) (phys : Bool) (base ptr : Word) (cap : Nat) : Nat :=
  match (s.ceTr e i phys base ptr needW).2 with
  | .ok t _ => if s.fifoMode t.pa then (s.ceFifo e i phys base (spadAt t.pa) (cap / 4096 + 1) ptr cap).2.1 else 64 - ptr.toNat % 64
  | _ => 64 - ptr.toNat % 64
/-- Bytes copied line by line of the destination, from the progress on. -/
def State.ceCopyRun (s : State) (e : Nat) (i : Issuer) (phys : Bool) (src dst : Word) (total : Nat) : Nat → Nat → State × CeRun
  | 0, _ => (s, .done)
  | fuel + 1, k =>
    if total ≤ k then (s, .done)
    else
      let a := src + BitVec.ofNat 64 k
      let b := dst + BitVec.ofNat 64 k
      let n := min (total - k) (s.cePace e i phys dst b 64)
      let r := s.ceRead e i phys src a 2 n
      match r.2.1 with
      | .done =>
        let w := r.1.ceAccess e i phys dst b n true
        match w.2 with
        | .ok u void => State.ceCopyRun ((w.1.cePut e i phys b u void r.2.2).ceProg e (k + n)) e i phys src dst total fuel (k + n)
        | x => (w.1, x.run)
      | .poison => r.1.cePoison e i phys dst (b + BitVec.ofNat 64 r.2.2.length) (n - r.2.2.length)
      | x => (r.1, x)
/-- COPY. -/
def execCopy (e : EngineN) (s : State) : Out :=
  .next (s.ceDo e.toNat 1 fun s i d =>
    let e := e.toNat
    let r := (s.ceProg e (s.ceBytes e)).ceCopyRun e i d.phys (d.at 1) (d.at 2) d.count (d.count / 64 + 3) (s.ceBytes e)
    match r.2 with
    | .done => (r.1.ceFin e 0).ceFinish e
    | x => r.1.ceAfter e x)

/-! ### COPYSC (R76) -/

/-- Pointer and base of the sidecar of image k on one side. -/
def Desc.side (d : Desc) (i : Issuer) (src : Bool) (k : Nat) (b : Word) : Word × Word :=
  if d.phys then
    let p := d.at (if src then 5 else 7) + BitVec.ofNat 64 (16 * k)
    (p, p)
  else match i with
    | .ctx _ _ _ _ _ _ guard _ => sidecarPtr guard b
    | .super _ => (0, 0)
/-- Rows of an image read; where that stops, the bytes before. -/
def State.ceRows (s : State) (e : Nat) (i : Issuer) (d : Desc) (b : Word) : List Nat → State × CeRun × List Byte
  | [] => (s, .done, [])
  | r :: t =>
    let p := b + BitVec.ofNat 64 r * stride32 (d.at 3) 0
    let x := s.ceRead e i d.phys (d.at 1) p 4 d.rlen
    match x.2.1 with
    | .done =>
      let y := State.ceRows x.1 e i d b t
      (y.1, y.2.1, x.2.2 ++ y.2.2)
    | o => (x.1, o, x.2.2)
/-- Where the byte at a position of an image that is to be written goes: base, pointer, and how many bytes of its row, or of the sidecar
behind the image, follow. -/
def Desc.outAt (d : Desc) (i : Issuer) (k pos : Nat) : Word × Word × Nat :=
  let b := d.at 2 + BitVec.ofNat 64 (k * fld (d.at 4) 32 32)
  if pos < d.img then
    let j := pos % d.rlen
    (d.at 2, b + BitVec.ofNat 64 (pos / d.rlen) * stride32 (d.at 3) 32 + BitVec.ofNat 64 j, d.rlen - j)
  else
    let q := d.side i false k b
    (q.1, q.2 + BitVec.ofNat 64 (pos - d.img), d.img + 16 - pos)
/-- An image written, and its sidecar after it, from where it has stopped; a row goes into a FIFO bank as one write (R50). The engine keeps
how far it has come, so that nothing is written twice. -/
def State.ceSend (s : State) (e : Nat) (i : Issuer) (d : Desc) (k : Nat) : Nat → CeOut → State × CeRun
  | 0, _ => (s, .done)
  | fuel + 1, o =>
    if o.data.length ≤ o.pos then (s, .done)
    else
      let w := d.outAt i k o.pos
      let n := min w.2.2 (s.cePace e i d.phys w.1 w.2.1 w.2.2)
      let r := s.ceAccess e i d.phys w.1 w.2.1 n true
      match r.2 with
      | .ok t void =>
        let s := r.1.cePut e i d.phys w.2.1 t void ((o.data.drop o.pos).take n)
        let o := { o with pos := o.pos + n }
        let s := (s.mapEngine e fun q => { q with out := some o }).ceProg e (d.img * k + if o.good then min o.pos d.img else 0)
        State.ceSend s e i d k fuel o
      | x => (r.1, x.run)
/-- What reading an image comes to: its bytes to be written, a source that differs from its sidecar, or a stop. -/
inductive CeTake where
  | out (o : CeOut)
  | differs
  | run (r : CeRun)
/-- Image k read and folded; `bad` counts the attempts at it whose refold differs. -/
def State.ceTake (s : State) (e : Nat) (i : Issuer) (d : Desc) (k bad : Nat) : State × CeTake :=
  let a := d.at 1 + BitVec.ofNat 64 (k * fld (d.at 4) 0 32)
  let sa := d.side i true k a
  let q := s.ceRead e i d.phys sa.1 sa.2 2 16
  let poison (s : State) (pos : Nat) : State × CeTake :=
    let w := d.outAt i k pos
    let z := s.cePoison e i d.phys w.1 w.2.1 w.2.2
    (z.1, .run z.2)
  match q.2.1 with
  | .done =>
    let sig : Word := BitVec.ofNat 64 (slice q.2.2 0 8)
    let w1 : Word := BitVec.ofNat 64 (slice q.2.2 8 8)
    let x := q.1.ceRows e i d a (List.range d.rows)
    match x.2.1 with
    | .done =>
      let f := memFold d.rlen x.2.2
      if bitAt w1 63 && f ≠ sig then (x.1, .differs)
      else if 4 ≤ bad then
        let fr := x.1.freeBytes d.img
        (fr.1, .out ⟨0, fr.2, false⟩)
      else
        let sc := if bitAt w1 63 then q.2.2 else sideBytes f (sideWord (fld (d.at 0) 54 4) d.rlen d.rows 0)
        (x.1, .out ⟨0, x.2.2 ++ sc, true⟩)
    | .poison => poison x.1 x.2.2.length
    | o => (x.1, .run o)
  | .poison => poison q.1 (d.img + q.2.2.length)
  | o => (q.1, .run o)
/-- The present image is written as far as it goes; then the next one follows in a step of its own, or the command ends. -/
def State.ceImage (s : State) (e : Nat) (i : Issuer) (d : Desc) (k : Nat) (o : CeOut) : State :=
  let r := (s.mapEngine e fun q => { q with out := some o }).ceSend e i d k (o.data.length + 1) o
  match r.2 with
  | .done =>
    if !o.good then (r.1.ceFin e 1).ceFinish e
    else
      let s := r.1.mapEngine e fun q => { q with images := k + 1, out := none }
      if d.count ≤ k + 1 then (s.ceFin e 0).ceFinish e else s
  | x => r.1.ceAfter e x
/-- The next image of the descriptor. -/
def State.ceNext (s : State) (e : Nat) (i : Issuer) (d : Desc) (bad : Nat) : State :=
  let k := (s.engine e).images
  if d.count ≤ k then (s.ceFin e 0).ceFinish e
  else match (s.engine e).out with
    | some o => s.ceImage e i d k o
    | none =>
      let r := s.ceTake e i d k bad
      match r.2 with
      | .out o => r.1.ceImage e i d k o
      | .differs => (r.1.ceFin e 2).ceFinish e
      | .run x => r.1.ceAfter e x
/-- COPYSC: one image; `bad` counts the attempts at it whose refold differs. -/
def execCopysc (e : EngineN) (bad : BitVec 3) (s : State) : Out :=
  .next (s.ceDo e.toNat 2 fun s i d => (s.ceProg e.toNat (s.ceBytes e.toNat)).ceNext e.toNat i d bad.toNat)

/-! ### MIGRATE (R34, R35) -/

/-- The tags of a line moved: into the tag-save area, or out of it. -/
def State.ceTags (s : State) (e : Nat) (i : Issuer) (a b tagAt : Word) : State × CeRun :=
  if regionOf a.toNat == .hbm then
    s.ceWriteRun e i true tagAt tagAt 2 (leBytes 2 (s.granOf a.toNat).toNat ++ leBytes 2 (s.granOf (a.toNat + 32)).toNat)
  else
    let r := s.ceRead e i true tagAt tagAt 2 4
    match r.2.1 with
    | .done =>
      let g (o : Nat) : BitVec 16 := BitVec.ofNat 16 (slice r.2.2 o 2)
      ((r.1.tagSet b.toNat (g 0)).tagSet (b.toNat + 32) (g 2), .done)
    | .poison => r.1.cePoison e i true b b 64
    | x => (r.1, x)
/-- Lines moved with their tags. Of the two bytes that a granule has in the tag-save area, the first holds the tag in bits [3:0] and HIST0
in [7:4], the second HIST1 and HIST2 (log entry 63). R35 has the engine copy any tile sidecars too; a descriptor names none, so those are copied
whose bytes lie in the source range, as the data they are, and no others (log entry 63). -/
def State.ceMoveRun (s : State) (e : Nat) (i : Issuer) (d : Desc) : Nat → Nat → State × CeRun
  | 0, _ => (s, .done)
  | fuel + 1, k =>
    if d.count ≤ k then (s, .done)
    else
      let a := d.at 1 + BitVec.ofNat 64 k
      let b := d.at 2 + BitVec.ofNat 64 k
      let r := s.ceCopyRun e i true a b 64 2 0
      match r.2 with
      | .done =>
        let t := r.1.ceTags e i a b (d.at 5 + BitVec.ofNat 64 (4 * (k / 64)))
        (match t.2 with
        | .done => State.ceMoveRun (t.1.ceProg e (k + 64)) e i d fuel (k + 64)
        | x => (t.1.ceProg e k, x))
      | x => (r.1.ceProg e k, x)
/-- MIGRATE: the leases over the source first, then the lines. -/
def execMigrate (e : EngineN) (s : State) : Out :=
  .next (s.ceDo e.toNat 3 fun s i d =>
    let e := e.toNat
    let src := (d.at 1).toNat
    let dies := (List.range 8).filter fun t => s.leased t src d.count
    if !dies.isEmpty then
      if bitAt (d.at 0) 58 && !(s.engine e).leaseAsked then
        dies.foldl (fun s t => s.revokeRange t src d.count) (s.mapEngine e fun k => { k with leaseAsked := true })
      else s
    else
      let r := (s.ceProg e (s.ceBytes e)).ceMoveRun e i d (d.count / 64 + 1) (s.ceBytes e)
      match r.2 with
      | .done => (r.1.ceFin e 0).ceFinish e
      | x => r.1.ceAfter e x)

/-! ### MCAST (R57) -/

/-- A line of a target's copy: a part of a poisoned line is not written (R79). -/
def State.mcastPut (s : State) (pa : Nat) (bs : List Byte) : State × HomeRes :=
  if bs.length = 64 then ((s.clearPoison pa 0).homeWrite pa bs, .ok)
  else if s.poisoned pa then (s, .poison)
  else (s.homeWrite pa bs, .ok)
/-- A target core takes its copy, if its banks there are in scratchpad mode; answers what became of it. -/
def State.mcastTo (s : State) (core off : Nat) (bs : List Byte) : State × HomeRes :=
  let pa := spadBase core + off
  if (linesOf pa bs.length).all fun l => bankMode (s.core (coreNo core)) (spadBank (64 * l)) = 0 then
    (cutRun ⟨0, BitVec.ofNat 64 pa, bs.length, 0⟩ (bs.length / 64 + 2) 0).foldl (fun (r : State × HomeRes) p =>
      let t := r.1.mcastPut p.2.ptr.toNat ((bs.drop p.2.off).take p.2.len)
      (t.1, if r.2 == .ok then t.2 else r.2)) (s, .ok)
  else (s, .decode)
/-- Whether a bank that a multicast write reaches is being switched: it is held (R53). -/
def State.mcastShut (s : State) (cores : List Nat) (off len : Nat) : Bool :=
  cores.any fun c => (linesOf (spadBase c + off) len).any fun l => bankBusy (s.core (coreNo c)) (spadBank (64 * l))
/-- A poisoned source: the line of every target's copy becomes poisoned. -/
def State.mcastPoison (s : State) (cores : List Nat) (at' : Nat) : State :=
  cores.foldl (fun s c =>
    let pa := spadBase c + at'
    if bankMode (s.core (coreNo c)) (spadBank pa) = 0 then (s.setPoison (pa / 64) true).wakeLine (pa / 64) else s) s
/-- MCAST: the bytes are read, every target takes its copy, and each refusing target is reported; then the engine has stopped. -/
def execMcast (e : EngineN) (s : State) : Out :=
  .next (s.ceDo e.toNat 4 fun s i d =>
    let e := e.toNat
    let off := (d.at 2).toNat
    if s.ceBytes e = d.count && d.count ≠ 0 then (s.ceFin e 0).ceFinish e
    else
      let cores := ((List.range 64).filter fun j => bitAt (d.at 5) j).map fun j => 64 * (e / 4) + j
      let r := s.ceRead e i d.phys (d.at 1) (d.at 1) (d.count / 64 + 2) d.count
      let bs := r.2.2
      let step (p : State × List HomeRes) (c : Nat) : State × List HomeRes :=
        let t := p.1.mcastTo c off bs
        (t.1.homeRec (ceActor e d.phys i) 1 ⟨0, d.count, 0, none⟩ (spadBase c + off) t.2, t.2 :: p.2)
      let t := cores.foldl step (r.1.ceProg e bs.length, [])
      if s.mcastShut cores off d.count then s
      else match r.2.1 with
      | .done =>
        if t.2.contains .decode then t.1.ceStop e 3
        else if t.2.contains .poison then t.1.ceAfter e .poison
        else (t.1.ceFin e 0).ceFinish e
      | .poison => (t.1.mcastPoison cores (off + bs.length)).ceAfter e .poison
      | x => r.1.ceAfter e x)

/-! ### CESTAT and CETAIL -/

/-- SKIP while stopped: the descriptor is abandoned with STATUS 4. -/
def State.ceSkip (s : State) (e : Nat) (w : Master) : State :=
  if ceMaster e w && bitAt (s.creg (ceReg e 24)) 6 then ((s.ceResume e w).ceFin e 4).ceFinish e else s
def execCetailWrite (e : EngineN) (w : Master) (v : Word) (s : State) : Out :=
  match w with
  | .ctx n c => .next (s.ceTailWrite e.toNat w (s.ctx n c).seq v)
  | _ => .next (s.behindMail w (ceReg e.toNat 0x10) v fun s => s.ceTailWrite e.toNat w 0 v)
def execCestatResume (e : EngineN) (w : Master) (s : State) : Out :=
  .next (s.behindMail w (ceReg e.toNat 0x18) 0x40 fun s => s.ceResume e.toNat w)
def execCestatSkip (e : EngineN) (w : Master) (s : State) : Out :=
  .next (s.behindMail w (ceReg e.toNat 0x18) 0x20 fun s => s.ceSkip e.toNat w)

/-! ### A register written (R7, R20, R92) -/

/-- A write of a control-space register performed for a master; `seq` is the place of a context's store. -/
def State.regDo (s : State) (w : Master) (seq pa : Nat) (v : Word) : State × RegRes :=
  let o := pa - ctlBase
  let off := o % 0x10000000
  let d := o / 0x10000000
  if 0x80000000 ≤ o then
    (s.sillWrite ((o - 0x80000000) / 0x8000000) ((o - 0x80000000) % 0x8000000) v, .ok)
  else if 0x600000 ≤ off && off < 0x600400 && off % 0x40 = 0x18 then
    let e := 16 * d + (off - 0x600000) / 0x40
    (if bitAt v 5 then s.ceSkip e w else if bitAt v 6 then s.ceResume e w else s, .ok)
  else s.dieWrite w seq d off v
/-- A write of a control-space register by a master. -/
def State.regWrite (s : State) (w : Master) (seq pa : Nat) (v : Word) : State × RegRes :=
  (s.behindMail w pa v fun s => (s.regDo w seq pa v).1, (s.regDo w seq pa v).2)
/-- A host function is stopped (R93, R94). -/
def State.hostViol (s : State) (rid : BitVec 16) (cls acc pa : Nat) : State :=
  { s.violRec 0 ⟨cls, 2, acc, 0, rid.toNat, 0, 0, 0, pa, 0, 0⟩ with
    pkg := { s.pkg with hostStopped := s.pkg.hostStopped ++ [rid.toNat] } }
/-- A master's access to a port it is not entitled to (R92): the context or host function is frozen. -/
def State.portViol (s : State) (w : Master) (acc pa : Nat) : State :=
  match w with
  | .ctx n c =>
    let x := s.ctx n c
    if !x.resident || x.held then s
    else (s.hold n c ⟨0x10, 6, 2, BitVec.ofNat 64 pa, x.a.pc, 5, x.a.rep.toNat, 0⟩).permRec n c 6 acc (BitVec.ofNat 64 pa) pa
  | .host rid => s.hostViol rid 2 acc pa
  | _ => s
/-- REGISTER_WRITE: of a populated register. -/
def execRegisterWrite (w : Master) (pa : PAddr) (v : Word) (s : State) : Out :=
  let p := pa.toNat
  let seq := match w with | .ctx n c => (s.ctx n c).seq | _ => 0
  if regionOf p == .ctl && p % 8 = 0 && ctlPopulated p then
    let r := s.regWrite w seq p v
    match r.2 with
    | .ok => .next r.1
    | .port => .next (r.1.portViol w 1 p)
  else .next s

end Sys2Proof.Machine
end

