-- ==== Sys2Proof/Machine/LoadPerf.lean ====
section
/-! DEFINITION. The load queue (R96 to R101, R107, R112 to R114): when an entry may be performed, and what performing it does for each
kind of load (chapters 13 and 14, R74, R87, R118, R342, R345). -/

namespace Sys2Proof.Machine

/-! ### What an entry touches -/

/-- Granules of an entry whose translation is known. -/
def Entry.grans (e : Entry) : List Nat :=
  e.pieces.flatMap fun p => match p.tr with | some t => (e.places t).flatMap fun a => granules a p.len | none => []
/-- Two entries share a granule. -/
def Entry.meets (e f : Entry) : Bool := e.grans.any fun g => f.grans.contains g
/-- Channels an entry's pieces travel on (R105). -/
def Entry.chans (e : Entry) : List Nat :=
  e.pieces.filterMap fun p => p.tr.map fun t => homeDie t.pa
def Entry.isAtom (e : Entry) : Bool := match e.kind with | .atom _ _ _ _ _ _ | .gssnext _ _ => true | _ => false
/-- A translation that an invalidation has marked (R127). -/
def Entry.marked (e : Entry) : Bool := e.pieces.any fun p => match p.tr with | some t => t.marked | none => false
/-- An acquire that holds back later accesses (R112): wider than context scope. -/
def Entry.acquires (e : Entry) : Bool := match e.acq with | some sc => sc ≠ 0 | none => false

/-- A multicast write whose tile load has not been performed: its bytes are not known yet (R123). -/
def Ctx.mcastWaits (x : Ctx) (e : Entry) : Bool :=
  match e.kind with | .mcast _ l _ => x.lq.any fun q => q.seq = l | _ => false
/-- Whether an entry reads the ownership entries of a die, one of which an OWNX of that home will have written (R142). -/
def Entry.readsOwn (e : Entry) (q : Entry) : Bool :=
  match q.kind, firstPa q.pieces with
  | .ownx _, some pa => e.pieces.any fun p => match p.tr with
    | some t => ownReg (homeDie pa) 0 0 ≤ t.pa && t.pa < ownReg (homeDie pa) 0 0 + 0x100000
    | none => false
  | _, _ => false

/-! ### Ordering (R99 to R101, R112 to R114, R125, R129) -/

/-- Lines held by early-visible stores of a core (R108), but for those of a context behind a place in program order: only a completion word
has such (R396). -/
def State.heldBefore (s : State) (n : CoreN) (c : CtxN) (seq : Nat) : List Nat :=
  allCtx.flatMap fun d => (((s.ctx n d).sq ++ (s.ctx n d).rq).filter fun e => d ≠ c || e.seq ≤ seq).flatMap Entry.held
/-- Waits 1 to 4 of R113 for a release at a place in program order; an arrival does not wait for stores to its own die (R117). -/
def State.relWaits (s : State) (n : CoreN) (c : CtxN) (seq : Nat) (scope : BitVec 3) (home : Option Nat) : Bool :=
  let x := s.ctx n c
  x.lq.all (fun e => seq ≤ e.seq)
    && x.sq.all (fun e => seq ≤ e.seq || (match home with
        | some d => !e.chans.isEmpty && e.chans.all (· = d)
        | none => false))
    && x.rq.all (fun e => seq = e.seq || (seq < e.seq && e.left)) && (scope = 0 || (s.heldBefore n c seq).isEmpty)
    && !s.engineOwes n c seq
/-- What a QMARK or FENCE asks before a later load. -/
def State.markLoad (s : State) (n : CoreN) (c : CtxN) (m : Mark) : Bool :=
  let x := s.ctx n c
  let loads := x.lq.all fun e => m.seq ≤ e.seq
  let atoms := x.sq.all fun e => m.seq ≤ e.seq || !e.isAtom
  if m.qmark then loads && (x.sq ++ x.rq).all fun e => m.seq ≤ e.seq
  else if m.acq && m.rel then s.relWaits n c m.seq m.scope none
  else if m.acq then loads && atoms
  else true
/-- What it asks before a later store or atomic. -/
def State.markStore (s : State) (n : CoreN) (c : CtxN) (m : Mark) : Bool :=
  let x := s.ctx n c
  if m.qmark then (x.lq ++ x.pound ++ x.sq).all (fun e => m.seq ≤ e.seq) && x.rq.isEmpty
  else if m.rel then s.relWaits n c m.seq m.scope none
  else s.markLoad n c m
/-- Marks that hold nothing back any more go; an acquire fence then discards the local cache (R114). -/
def State.settleMarks (s : State) (n : CoreN) (c : CtxN) : State :=
  (s.ctx n c).marks.foldl (fun s m =>
    if s.markStore n c m then
      let x := s.ctx n c
      let s := s.setCtx n c { x with marks := x.marks.filter (· ≠ m) }
      if m.acq && m.scope ≠ 0 then s.discardCache n else s
    else s) s
/-- Order of a load against the earlier accesses of its context. -/
def State.loadOrder (s : State) (n : CoreN) (c : CtxN) (e : Entry) : Bool :=
  let x := s.ctx n c
  let before (q : Entry) : Bool := q.seq < e.seq
  !(x.lq ++ x.pound ++ x.sq).any (fun q => before q && q.unknown)
    && !x.lq.any (fun q => before q && (q.acquires || q.meets e))
    && !x.sq.any (fun q => before q && q.isAtom && (q.acquires || q.meets e))
    && !(x.pound ++ x.sq ++ x.rq).any (fun q => before q && ((x.mcastWaits q && q.meets e) || e.readsOwn q))
    && x.marks.all fun m => e.seq ≤ m.seq || s.markLoad n c m

/-! ### Bytes -/

/-- A load that reads at its home even where the local cache holds the line: a monarm (R345), a repeated tile load (R74), a tag read (R351). -/
def Entry.homeOnly (e : Entry) : Bool := match e.kind with | .monarm _ _ _ => true | .tagrd _ => true | .tld _ _ _ _ _ _ _ _ r _ => r | _ => false
/-- A load passes the local cache by: an acquire as well, but for held lines (R112). -/
def Entry.bypasses (e : Entry) : Bool := e.acquires || e.homeOnly
/-- The line of the local cache that serves a piece. -/
def State.fromLine (s : State) (n : CoreN) (e : Entry) (t : Tr) : Option VReg :=
  if t.marked || !cacheable t || e.homeOnly || (e.acquires && !(s.heldLines n).contains (t.pa / 64)) then none else (s.core n).cached t.pa
/-- A piece to be read at its home has bytes that an early-visible store of another context of the core holds: it waits for that store,
which the core may have read already (R97). -/
def State.lineBusy (s : State) (n : CoreN) (c : CtxN) (e : Entry) (p : Piece) : Bool :=
  match p.tr with
  | some t => (s.fromLine n e t).isNone && (List.range p.len).any fun j => s.heldByte n (allCtx.filter (· != c)) (t.pa + j)
  | none => false
/-- What a load sees at its pieces; one forwarded from stores that wait for their translation sees nothing. -/
def State.loadCheck (s : State) (n : CoreN) (c : CtxN) (e : Entry) (own : List Entry) : List Piece → HomeRes
  | [] => .ok
  | p :: t =>
    match p.tr with
    | none => State.loadCheck s n c e own t
    | some tr =>
      let line := s.fromLine n e tr
      let chk := s.homeChk ((s.ctx n c).actor n c) p tr false fun g =>
        ownGran own (mget 0 s.gran g) g (fld p.ptr 0 48 + (32 * g - tr.pa))
      let tagged := tr.tc && (s.ctx n c).tagpol ≠ 2 && tagged tr.pa
      let res : HomeRes := if tr.marked then .ok
        else if line.isNone then chk
        else if (s.core n).badLine tr.pa then .poison
        else if chk = .poison && !tagged then .ok else chk
      match res with
      | .ok => State.loadCheck s n c e own t
      | .report v => (match State.loadCheck s n c e own t with | .ok | .report _ => .report v | r => r)
      | r => r
/-- The piece that a refusal, or a tag report, names: the first that the home says it of, so that a record is of one piece (R94). -/
def State.badPiece (s : State) (n : CoreN) (c : CtxN) (e : Entry) (own : List Entry) (r : HomeRes) : Piece × Nat :=
  let hit := e.pieces.find? fun p => s.loadCheck n c e own [p] = r
  let p := hit.getD ⟨0, 0, 0, none⟩
  (p, ((p.tr.map (·.pa)).getD 0))
/-- Bytes of a piece: its context's own earlier stores over a line of the local cache or over the home (R100). -/
def State.pieceBytes (s : State) (n : CoreN) (e : Entry) (own : List Entry) (p : Piece) : List Byte :=
  match p.tr with
  | none => []
  | some t =>
    let bs : List Byte := match s.fromLine n e t with
      | some v => lineBytes v (t.pa % 64) p.len
      | none => if regionOf t.pa == Region.ctl then leBytes 8 (s.regRead t.pa).1.toNat else s.rdBytes t.pa p.len
    (bs.zipIdx).map fun b => (ownByte own (t.pa + b.2) (fld p.ptr 0 48 + b.2)).getD b.1
/-- Pieces read, in the order of their offsets. -/
def insGot (g : Nat × List Byte) : List (Nat × List Byte) → List (Nat × List Byte)
  | [] => [g]
  | h :: t => if g.1 ≤ h.1 then g :: h :: t else h :: insGot g t
/-- The data of an access from the pieces read, zero where there is none. -/
def gotBytes (l : List (Nat × List Byte)) : List Byte :=
  (l.foldr insGot []).foldl (fun bs g => bs ++ List.replicate (g.1 - bs.length) 0 ++ g.2) []
/-- Lines that a load of these pieces brings into the local cache; one read at its home makes a present line fresh, so that no later
load reads an older value there (R97). -/
def State.fillAfter (s : State) (n : CoreN) (e : Entry) (ps : List Piece) : State :=
  ps.foldl (fun s p => match p.tr with
    | some t =>
      if t.marked then s
      else if (s.fromLine n e t).isSome then s
      else if ((s.core n).cached t.pa).isSome then s.cacheFresh n t.pa
      else if cacheable t && !e.bypasses then s.cacheFill n t.pa
      else s
    | none => s) s
/-- A scalar load's value. -/
def extendBytes (w : Nat) (sgn : Bool) (bs : List Byte) : Word :=
  let v := leNat (bs.take w)
  if sgn then BitVec.ofInt 64 (sInt (8 * w) v) else BitVec.ofNat 64 v
/-- Lanes loaded over the old register. -/
def lanesOver (w : Nat) (act : BitVec 64) (old : VReg) (bs : List Byte) : VReg :=
  (List.range (64 / w)).foldl (fun (v : VReg) i =>
    if bitAt act i then putFld512 v (8 * w * i) (8 * w) (slice bs (w * i) w) else v) old
where
  putFld512 (v : VReg) (lo len x : Nat) : VReg :=
    let m : VReg := BitVec.ofNat 512 (2 ^ len - 1) <<< lo
    (v &&& ~~~m) ||| (BitVec.ofNat 512 (x % 2 ^ len) <<< lo)

/-! ### Banks in FIFO mode (R50 to R52) -/

/-- The FIFO bank of an access: address, or none. -/
def State.fifoPiece (s : State) (e : Entry) : Option (Nat × Nat) :=
  (e.pieces.find? fun p => match p.tr with | some t => s.fifoMode t.pa | none => false).bind fun p => p.tr.map fun t => (t.pa, p.len)
/-- A pop or push of exactly one element. -/
def State.fifoFits (s : State) (e : Entry) (pa len : Nat) : Bool :=
  e.pieces.length = 1 && len = s.fifoEs pa && pa % len = 0
/-- A pop: allowed to OWNCTX of the bank's own core. -/
def State.popOk (s : State) (n : CoreN) (c : CtxN) (e : Entry) (pa len : Nat) : Bool :=
  (match e.kind with | .ld _ _ _ | .vld _ _ _ _ => true | _ => false)
    && s.fifoFits e pa len && n = (spadAt pa).1 && fifoOwner (s.core n) c (spadAt pa).2
/-- The entry at the tentative head. -/
def State.fifoHead (s : State) (pa : Nat) : Option (List Byte) :=
  let q := mget Fifo.zero (s.core (spadAt pa).1).fifo (spadAt pa).2
  q.q[q.tent]?
def State.fifoPop (s : State) (pa : Nat) : State :=
  let n := (spadAt pa).1
  let b := (spadAt pa).2
  let k := s.core n
  let q := mget Fifo.zero k.fifo b
  s.setCore n { k with fifo := mset Fifo.zero k.fifo b { q with tent := q.tent + 1 } }

/-! ### The end of an access -/

/-- An entry leaves the load queue with its result. -/
def State.doneLoad (s : State) (n : CoreN) (c : CtxN) (e : Entry) (ws : Option (List Write)) : State :=
  let x := s.ctx n c
  let x := { x with lq := x.lq.filter (· ≠ e) }
  let x := match ws with | some l => x.arrive e.seq l | none => x
  let s := s.setCtx n c x
  let s := s.count n c 0x0A 1
  if e.acquires then s.discardCache n else s
/-- A refused access of a context: the record, the cause, and the access waits. While a stop is held it is left for later (R403). -/
def State.refuseAt (s : State) (n : CoreN) (c : CtxN) (e : Entry) (acc : Nat) (p : Piece) (pa : Nat) (r : HomeRes) : State :=
  match r.cause with
  | none => s
  | some (code, sub, cls) =>
    if (s.ctx n c).held then s
    else (s.homeRec ((s.ctx n c).actor n c) acc p pa r).stopAt n c e code sub cls p.ptr
/-- A watchpoint that a performed access matches (R401). -/
def State.watchStop (s : State) (n : CoreN) (c : CtxN) (e : Entry) (w : Option (Nat × Word)) : State :=
  match w with
  | some (i, ptr) => s.complete n c e 0x0D i 1 ptr
  | none => s
/-- Whether a held context keeps an access from being performed: it would report a watchpoint. -/
def State.watchWait (s : State) (n : CoreN) (c : CtxN) (w : Option (Nat × Word)) : Bool := w.isSome && (s.ctx n c).held

/-! ### Tile loads (R74, R362, R363) -/

/-- What a checked tile load comes to: the tile with its bound, reason 5, or a mismatch. -/
inductive TldRes where
  | ok (bt : BitVec 32)
  | reason5
  | mismatch
  deriving DecidableEq, Repr
def tldRes (ty : BitVec 4) (chk : Bool) (rows rlen : Nat) (img side : List Byte) : TldRes :=
  let sig : Word := BitVec.ofNat 64 (slice side 0 8)
  let w1 : Word := BitVec.ofNat 64 (slice side 8 8)
  if !chk || !bitAt w1 63 then .ok 0
  else if sideMalformed w1 then .mismatch
  else if fld w1 36 4 ≠ sideFmt ty || fld w1 48 8 ≠ rlen || fld w1 43 5 ≠ rows - 1 then .reason5
  else if memFold rlen img = sig then .ok (w1.setWidth 32)
  else .mismatch
/-- A tile load performed on its bytes; what differs from its sidecar is read once more from the home. -/
def State.tldDone (s : State) (n : CoreN) (c : CtxN) (e : Entry) (bs : List Byte) : State :=
  match e.kind with
  | .tld t k rows rlen ty chk ptr stride reread mc =>
    let img := bs.take (k * rlen)
    match tldRes ty chk rows rlen img (bs.drop (rows * rlen)) with
    | .ok b =>
      let rs : List RowW := (List.range k).map fun i => ⟨i, 0, 8 * rlen, slice img (rlen * i) rlen⟩
      let full := k = rows
      let org : Origin := if full then .load ptr stride (memFold rlen img) ty chk else .none
      let x := s.ctx n c
      let give (q : Entry) : Entry := match q.kind with
        | .mcast _ l _ => if l = e.seq then { q with data := bs } else q
        | _ => q
      let s := s.setCtx n c { x with pound := x.pound.map give, sq := x.sq.map give, rq := x.rq.map give }
      s.doneLoad n c e (some [.tile t rs (if full then some b else none) (some org)])
    | .reason5 =>
      if (s.ctx n c).held then s
      else
        let x := s.ctx n c
        let keep (q : Entry) : Bool := match q.kind with | .mcast _ l _ => l ≠ e.seq | _ => true
        let gone (l : List Pend) : List Pend := l.filter fun p => p.seq ≠ e.seq
        let s := s.setCtx n c { x with
          lq := x.lq.filter (· ≠ e), pend := gone x.pend, ckPend := gone x.ckPend
          pound := x.pound.filter keep, sq := x.sq.filter keep }
        s.complete n c e 2 0 1 (BitVec.ofNat 64 (t + 16 * 5))
    | .mismatch =>
      let again (r : Bool) (q : Entry) : Entry := { q with
        kind := .tld t k rows rlen ty chk ptr stride r mc, got := [], void := false }
      if !reread then s.setCtx n c ((s.ctx n c).onEntry e (again true))
      else if (s.ctx n c).held then s
      else
        let s := s.setCtx n c ((s.ctx n c).onEntry e (again false))
        s.stopAt n c (again false e) 5 0 1 ptr
  | _ => s

/-! ### Configuration, restore and reloads -/

/-- The bytes of a tcfg or trest are there: it waits for its results (R360, R376). -/
def State.cfgRead (s : State) (n : CoreN) (c : CtxN) (e : Entry) (kind : EKind) (bs : List Byte) : State :=
  s.setCtx n c ((s.ctx n c).onEntry e fun q => { q with kind := kind, data := bs, left := true })
/-- A restore has read its image: its reloads join it, if it needs any and the image passes. -/
def State.trestRead (s : State) (n : CoreN) (c : CtxN) (e : Entry) (bs : List Byte) : State :=
  let x := s.ctx n c
  let l := imgLoads bs
  if (blkReason bs x.tres).isSome || imgBad bs || l.isEmpty then s.cfgRead n c e (.trest [] bs) []
  else
    let a := x.a.takeCfg (blkOf bs)
    let bad (sub : Nat) (ptr : Word) (pa : Nat) : State :=
      if x.held then s else (s.stopAt n c e 0x10 sub 2 ptr).permRec n c sub 0 ptr pa
    match issueTr x n needR (reloadRuns a l) with
    | .ok ps => (match ctlPiece ps with
      | some p => bad 2 p.ptr ((firstPa [p]).getD 0)
      | none => s.setCtx n c (x.onEntry e fun q => { q with kind := .trest l bs, pieces := ps, got := [], void := false }))
    | .bad sub ptr pa => bad sub ptr pa
/-- The reloads of a restored context are read: folds are compared, and a tile whose fold differs has no origin any more (R410). -/
def State.reloadDone (s : State) (n : CoreN) (c : CtxN) (e : Entry) (org : List (Nat × Word × Word × Word × BitVec 5))
    (bs : List Byte) : State :=
  let x := s.ctx n c
  let rel := splitRel (fun t => (x.a.shapeOf t).rows * (x.a.shapeOf t).rlen) org bs
  let bad := relDiffers x.a.shapeOf org rel
  let fill (a : Arch) : Arch := rel.foldl (fun a r => a.fillTile r.1 r.2 (if bad.contains r.1 then some .none else none)) a
  let s' := s.setCtx n c { x with lq := x.lq.filter (· ≠ e), a := fill x.a, ck := fill x.ck }
  match bad.head? with
  | some t => if x.held then s else s'.takeLocal n c ⟨2, 0, 1, BitVec.ofNat 64 (t + 16 * 6), e.pc, e.slotNo, e.k, 0⟩
  | none => s'

/-! ### WAITP (R118, R340, R342) and monitors (R345, R346) -/

/-- Whether a barrier admits a context. -/
def barAdmits (w : Word) (pa : Nat) (n : CoreN) : Bool :=
  bitAt w 56 && (match fld w 50 3 with
    | 1 => clusterOf n = 4 * homeDie pa + fld w 53 2
    | 2 => dieOf n = homeDie pa
    | _ => true)
/-- A WAITP reaches its home: it completes, waits in the list, or finds the list full and is sent again 256 core cycles later. -/
def State.waitpAt (s : State) (n : CoreN) (c : CtxN) (e : Entry) (q : Bool) (start cyc : Nat) : State :=
  let pa := (firstPa e.pieces).getD 0
  let w := s.creg pa
  let ptr := (e.pieces.head?.map (·.ptr)).getD 0
  let now := (s.core n).cyc.toNat
  if now < e.retryAt then s
  else if s.poisoned pa then if (s.ctx n c).held then s else s.stopAt n c e 6 0 1 ptr
  else if !isBarrier pa || !barAdmits w pa n then s.waitpRefuse n c e
  else if bitAt w 48 != q then s.waitpDone n c e
  else if s.listed (homeDie pa) < 4096 then
    s.setCtx n c ((s.ctx n c).onEntry e fun f => { f with kind := .waitp q start true cyc })
  else s.setCtx n c ((s.ctx n c).onEntry e fun f => { f with retryAt := now + 256 })
/-- The other contexts whose monitors a home holds, and how many it can hold; none for a region without monitors. -/
def State.monsAt (s : State) (n : CoreN) (c : CtxN) (pa : Nat) : List Nat × Nat :=
  let at' (f : Nat → Bool) : List Nat := (s.ctxs.filter fun kv => kv.1 ≠ ctxKey n c && (match kv.2.mon with
    | .armed l => f (64 * l)
    | _ => false)).map (·.1)
  match regionOf pa with
  | .hbm | .llc => (at' fun p => (regionOf p == .hbm || regionOf p == .llc) && homeDie p = homeDie pa, 1024)
  | .spad => (at' fun p => regionOf p == .spad && spadAt p == spadAt pa, 4)
  | _ => ([], 0)
/-- A monitor armed at its home, if the home can hold it. Evictions are not architected: a free value says whether the home evicts a monitor
it holds, and which (R346; log entry 59). -/
def State.armMon (s : State) (n : CoreN) (c : CtxN) (pa seq : Nat) : State :=
  let held := (s.monsAt n c pa).1
  let r := if held.isEmpty then (0, s) else (s.free.1.toNat, s.free.2)
  let s := if r.1 % 2 = 0 then r.2
    else
      let key := held.getD (r.1 / 2 % held.length) 0
      { r.2 with ctxs := mset .zero r.2.ctxs key { mget .zero r.2.ctxs key with mon := .lost } }
  let q := s.monsAt n c pa
  s.setCtx n c { s.ctx n c with mon := if q.1.length < q.2 then .armed (pa / 64) else .lost, monSeq := seq }

/-! ### Performing an entry (R96) -/

/-- Pieces performed in one step: a free value says of each piece of several whether it is (R96). -/
def State.pick (s : State) : List Piece → State × List Piece
  | [] => (s, [])
  | [p] => (s, [p])
  | p :: l =>
    let r := (p :: l).foldl (fun (r : State × List Piece) q =>
      let f := r.1.free
      (f.2, if bitAt f.1 0 then r.2 else r.2 ++ [q])) (s, [])
    if r.2.isEmpty then (r.1, [p]) else r
/-- What a load does with its bytes once every piece is read. -/
def State.loadDo (s : State) (n : CoreN) (c : CtxN) (e : Entry) (own : List Entry) (bs : List Byte) : State :=
  match e.kind with
  | .ld d w sgn => s.doneLoad n c e (some (if d = 0 then [] else [.s d (extendBytes w sgn bs)]))
  | .vld d w act old => s.doneLoad n c e (some [.v d (lanesOver w act old bs)])
  | .tagrd d =>
    let pa := (firstPa e.pieces).getD 0
    let va := fld ((e.pieces.head?.map (·.ptr)).getD 0) 0 48
    let g := ownGran own (s.granOf pa) (pa / 32) va
    s.doneLoad n c e (some (if d = 0 then [] else [.s d (g.setWidth 64)]))
  | .monarm d w sgn =>
    let s := s.armMon n c ((firstPa e.pieces).getD 0) e.seq
    s.doneLoad n c e (some (if d = 0 then [] else [.s d (extendBytes w sgn bs)]))
  | .tld _ _ _ _ _ _ _ _ _ _ => s.tldDone n c e bs
  | .tcfg => s.cfgRead n c e .tcfg bs
  | .trest org blk => if blk.isEmpty then s.trestRead n c e bs else s.cfgRead n c e (.trest org blk) bs
  | .reload org => s.reloadDone n c e org bs
  | _ => s
/-- What a prefetch brings in, of lines that can be read: level 0 a cacheable line into a local cache that has banks, level 1 a line of HBM of type
cached into the home's L2, level 2 one of type cached or streaming into its LLC (R348). -/
def State.prefDo (s : State) (n : CoreN) (c : CtxN) (e : Entry) (fn : BitVec 4) : State :=
  let lvl := fld fn 0 2
  let s := e.pieces.foldl (fun s p => match p.tr with
    | some t =>
      if !(if lvl = 0 then cacheable t && (s.core n).ways ≠ 0 else t.mt = 0 || (lvl = 2 && t.mt = 2)) then s
      else
        let s := s.eccRead (t.pa / 64)
        if s.homeCheck ((s.ctx n c).actor n c) p t false != .ok then s
        else if lvl ≠ 0 then s.l2Touch t.pa t.mt false
        else if ((s.core n).cached t.pa).isNone then (s.cacheFill n t.pa).l2Touch t.pa t.mt false
        else s
    | none => s) s
  s.setCtx n c { s.ctx n c with lq := (s.ctx n c).lq.filter (· ≠ e) }
/-- A SUSPEND's condition address is known (R294). -/
def State.suspDo (s : State) (n : CoreN) (c : CtxN) (e : Entry) (code : BitVec 4) (rval : BitVec 32) : State :=
  let x := s.ctx n c
  let pa := (firstPa e.pieces).getD 0
  if code = 1 && !isBarrier pa then
    if x.held then s
    else
      let ptr := (e.pieces.head?.map (·.ptr)).getD 0
      (s.stopAt n c e 0x10 2 2 ptr).permRec n c 2 0 ptr pa
  else s.setCtx n c ({ x with lq := x.lq.filter (· ≠ e) }.suspRecord code.toNat pa rval)
/-- A piece that no tag check applies to. -/
def Piece.noTc (p : Piece) : Piece := { p with tr := p.tr.map fun (t : Tr) => { t with tc := false } }
/-- A pop meets poison: a line of its bank is poisoned, and a free value says that the head lies in it, as the spec does not say where in the
bank an entry lies (R52, R80; log entry 76). -/
def State.popPoison (s : State) (pa : Nat) : State × Bool :=
  let base := spadBase (spadCore pa) + 0x8000 * spadBank pa
  if s.poison.any fun l => base ≤ 64 * l.1 && 64 * l.1 < base + 0x8000 then (s.free.2, bitAt s.free.1 0) else (s, false)
/-- The watchpoint of a load is reported once the load has been performed: a tile load that reads its bytes again has not (R74, R401). -/
def State.watchLoad (s : State) (n : CoreN) (c : CtxN) (e : Entry) (w : Option (Nat × Word)) : State :=
  match e.kind with
  | .tld _ _ _ _ _ _ _ _ _ _ => if (s.ctx n c).lq.any fun q => q.seq = e.seq then s else s.watchStop n c e w
  | _ => s.watchStop n c e w
/-- A load of memory, checked and performed. -/
def State.loadMem (s : State) (n : CoreN) (c : CtxN) (e : Entry) : State :=
  let x := s.ctx n c
  let own := x.ownBefore e.seq
  match s.fifoPiece e with
  | some (pa, len) =>
    let p := (e.pieces.head?).getD ⟨0, 0, 0, none⟩
    if !s.popOk n c e pa len then s.refuseAt n c e 0 p pa .decode
    else match s.fifoHead pa with
      | none => s
      | some bs =>
        let w := s.watchHit n c false true e.pieces
        let r := s.popPoison pa
        if s.watchWait n c w || (r.2 && x.held) then s
        else if r.2 then r.1.refuseAt n c e 0 p pa .poison
        else
          let s := r.1.fifoPop pa
          let s := match e.kind with
            | .ld d w sgn => s.doneLoad n c e (some (if d = 0 then [] else [.s d (extendBytes w sgn bs)]))
            | .vld d w act old => s.doneLoad n c e (some [.v d (lanesOver w act old (List.replicate p.off 0 ++ bs))])
            | _ => s
          s.watchStop n c e w
  | none =>
    let r := s.pick (e.pieces.filter fun p => !e.got.any (·.1 = p.off))
    let ps := r.2
    let q := { e with pieces := ps }
    let last := e.got.length + ps.length = e.pieces.length
    let s := r.1.eccPieces ps
    let q := match e.kind with | .tagrd _ => { q with pieces := ps.map Piece.noTc } | _ => q
    let chk := s.loadCheck n c e own q.pieces
    let b := s.badPiece n c q own chk
    let port := match ps.head?.bind (·.tr) with
      | some (t : Tr) => regionOf t.pa == Region.ctl && (s.regRead t.pa).2 == RegRes.port
      | none => false
    let w := if last then s.watchHit n c false true e.pieces else none
    let read (s : State) (void : Bool) : State :=
      let got := e.got ++ ps.map fun p => (p.off, s.pieceBytes n e own p)
      let v := e.void || void
      let s := (s.fillAfter n e ps).l2Pieces ps
      if last then
        let bs := gotBytes got
        (s.loadDo n c e own (if v then List.replicate bs.length 0 else bs)).watchLoad n c e w
      else s.setCtx n c ((s.ctx n c).onEntry e fun q => { q with got := got, void := v })
    if s.watchWait n c w || ps.any (s.lineBusy n c e) then s
    else if port then
      let ptr := (ps.head?.map (·.ptr)).getD 0
      if x.held then s else (s.stopAt n c e 0x10 6 2 ptr).permRec n c 6 0 ptr ((firstPa ps).getD 0)
    else match chk with
      | .ok => read s false
      | .report v => read (s.homeRec (x.actor n c) 0 b.1 b.2 (.report v)) true
      | r => s.refuseAt n c e 0 b.1 b.2 r
/-- Whether the banks that an entry reaches are open (those of a multicast write's targets it looks at itself), and no earlier load of the context is to pop the same one. -/
def State.banksOpen (s : State) (n : CoreN) (c : CtxN) (e : Entry) (store : Bool) : Bool :=
  (match e.kind with | .mcast _ _ _ => true | _ => false) || e.pieces.all fun p => match p.tr with
    | some t => s.bankOpen n c e.seq store t.pa && (store || !s.peerDead t.pa)
        && (!s.fifoMode t.pa || !(s.ctx n c).lq.any fun q => q.seq < e.seq && q.pieces.any fun u => match u.tr with
          | some v => regionOf v.pa == .spad && spadAt v.pa == spadAt t.pa
          | none => false)
    | none => false
/-- A load with pieces forwarded from stores that wait for their translation (R128): it is performed while they hold its bytes; once
they do not, it is translated afresh. -/
def State.loadForward (s : State) (n : CoreN) (c : CtxN) (e : Entry) : State :=
  let x := s.ctx n c
  let lost (p : Piece) : Bool := match p.tr with | some t => t.marked | none => false
  if (e.pieces.filter lost).all (x.forwarded e) then s.loadMem n c e
  else s.setCtx n c (x.onEntry e fun q => { q with pieces := q.pieces.map fun p => if lost p then { p with tr := none } else p })
/-- The load-queue entry at index k of a context is performed, if nothing holds it back. -/
def State.loadAt (s : State) (n : CoreN) (c : CtxN) (k : Nat) : State :=
  let s := s.settleMarks n c
  match (s.ctx n c).lq[k]? with
  | none => s
  | some e =>
    if e.unknown || e.reported || e.left || !s.loadOrder n c e || !s.banksOpen n c e false then s
    else match e.kind with
      | .pref fn => s.prefDo n c e fn
      | .waitp q start listed cyc => if listed then s else s.waitpAt n c e q start cyc
      | .susp code rval => s.suspDo n c e code rval
      | _ =>
        if e.lostTr then s.loadForward n c e else s.loadMem n c e
/-- LOAD_PERFORM. -/
def execLoadPerform (n : CoreN) (c : CtxN) (k : Nat) (s : State) : Out := .next (s.loadAt n c k)

/-! ### WAITP and MONWAIT: time (R203, R342, R347) -/

/-- The WAITP of the context in focus. -/
def Ctx.waitpEntry (x : Ctx) : Option (Entry × Nat) :=
  (x.lq.zipIdx).find? fun p => match p.1.kind with | .waitp _ _ _ _ => true | _ => false
/-- WAITP_RETRY: a request that found the list full is sent again. -/
def execWaitpRetry (s : State) : Out :=
  match s.cx.waitpEntry with
  | some p => .next (s.loadAt s.foc.core s.foc.ctx p.2)
  | none => .next s
/-- WAITP_TIMEOUT: CYCLES core cycles after its issue, a WAITP that has not completed suspends the record, unless the home has flipped the
phase by then: that is tested once. -/
def execWaitpTimeout (s : State) : Out :=
  let n := s.foc.core
  let c := s.foc.ctx
  let x := s.ctx n c
  match x.waitpEntry with
  | some (e, _) =>
    (match e.kind with
     | .waitp q start l cyc =>
       let pa := (firstPa e.pieces).getD 0
       let w := s.creg pa
       if x.run = .live && cyc ≠ 0 && start + cyc ≤ (s.core n).cyc.toNat && !e.unknown && !e.reported then
         if barAdmits w pa n && bitAt w 48 != q then
           .next (if s.loadOrder n c e then s.waitpDone n c e
             else s.setCtx n c (x.onEntry e fun f => { f with kind := .waitp q start l 0 }))
         else
           let y := x.suspRecord 1 pa (if q then 1 else 0)
           let y := { y with recd := mset 0 y.recd 0 (putFld (y.w 0) 60 4 2) }
           .next ((s.setCtx n c y).beginEnd n c 1)
       else .next s
     | _ => .next s)
  | none => .next s
/-- MONWAIT_TIMEOUT. -/
def execMonwaitTimeout (s : State) : Out :=
  let n := s.foc.core
  let c := s.foc.ctx
  let x := s.ctx n c
  match x.monwait with
  | some m =>
    if m.limit ≠ 0 && m.start + m.limit ≤ (s.core n).cyc.toNat then
      .next (s.setCtx n c { x.arrive m.seq (if m.d = 0 then [] else [.s m.d 0]) with mon := .off, monwait := none })
    else .next s
  | none => .next s

end Sys2Proof.Machine
end

