-- ==== Sys2Proof/Machine/StorePerf.lean ====
section
/-! DEFINITION. The store queue (R96 to R106, R108, R113 to R117) and the replay queue (R127 to R129): when an entry may be
performed, and what performing it does for each kind of store (R50 to R52, R57, R76, R79, R85, R90, R136, R142, R228, R300 to
R302, R340, R343, R393 to R396). -/

namespace Sys2Proof.Machine

/-! ### When an entry may be performed -/

/-- Virtual granules of an entry. -/
def Entry.vgrans (e : Entry) : List Nat := e.pieces.flatMap fun p => granules (fld p.ptr 0 48) p.len
/-- The barrier's home die, of an ARRIVE (R117). -/
def Entry.arriveHome (e : Entry) : Option Nat :=
  match e.kind with | .arrive => (firstPa e.pieces).map homeDie | _ => none
/-- A TSEND whose completion word alone is left: a store of the context (R396). -/
def Entry.cwOnly (e : Entry) : Bool := match e.kind with | .tsend _ _ _ _ (some off) => e.pieces.all (·.off = off) | _ => false
/-- An entry that a copy engine of the cluster serves (R125, R354). -/
def Entry.viaEngine (e : Entry) : Bool :=
  match e.kind with | .mcast _ _ _ => true | .tsend _ _ _ _ _ => !e.cwOnly | _ => false
/-- Two entries travel on one channel (R105). -/
def Entry.shares (e f : Entry) : Bool := e.chans.any fun h => f.chans.contains h
/-- Stores from a place in program order on are held (R93). -/
def Ctx.holdsBack (x : Ctx) (e : Entry) : Bool := match x.sqHold with | some h => h ≤ e.seq | none => false
/-- A parked store that a store must not pass: one of the same granule, as far as either is known (R100), or one on the page-table line
that the store parked on at its issue (R128). -/
def Ctx.behindParked (x : Ctx) (e : Entry) : Bool :=
  x.rq.any fun q => q.seq < e.seq
    && ((q.vgrans.any fun v => e.vgrans.contains v) || q.meets e || (e.was.isSome && (q.park = e.was || q.was = e.was)))
/-- Whether an entry may leave the store queue: every earlier one has left (R98), and what an acquire, a mark or a release asks has come
about (R100, R101, R112 to R114, R123, R128). -/
def State.mayLeave (s : State) (n : CoreN) (c : CtxN) (e : Entry) : Bool :=
  let x := s.ctx n c
  let before (q : Entry) : Bool := q.seq < e.seq
  let ahead := x.sq.takeWhile (· ≠ e)
  !e.unknown && !e.reported && !x.mcastWaits e && !x.holdsBack e && (e.park.isNone || e.woken)
    && ahead.all (·.left)
    && !ahead.any (fun q => q.isAtom && q.acquires)
    && !(x.lq ++ x.pound).any (fun q => before q && q.unknown)
    && !x.lq.any (fun q => before q && (q.acquires || q.meets e))
    && (e.marked || !x.behindParked e)
    && x.marks.all (fun m => e.seq ≤ m.seq || s.markStore n c m)
    && (match e.rel with | some sc => s.relWaits n c e.seq sc e.arriveHome | none => true)
/-- Whether an engine of a core's cluster stands between descriptors, or at a stopped one: what it has begun is not on its way (R354). -/
def State.engineFree (s : State) (n : CoreN) : Bool :=
  (List.range 4).any fun i =>
    let e := 4 * clusterOf n + i
    let k := s.engine e
    bitAt (s.creg (ceReg e 24)) 6 || (k.park.isNone && !k.unmon && k.fin.isNone && k.images = 0 && k.out.isNone && s.ceBytes e = 0)
/-- Earlier entries of a context that travel ahead of an entry on one of its channels (R106). One that has come back to the store queue still
does; a parked one does not (R128). -/
def Ctx.ahead (x : Ctx) (e : Entry) : Bool := (x.sq ++ x.rq.filter (·.left)).any fun q => q.seq < e.seq && q.shares e
/-- What a context has sent stays where it is for the time being, and entries of other contexts pass it: it is refused and waits for a
resumption, it is held (R93), it waits at a bank that is being switched (R53), or it is a completion word or behind one (R396). -/
def State.passed (s : State) (n : CoreN) (d : CtxN) (q : Entry) : Bool :=
  let y := s.ctx n d
  q.reported || y.holdsBack q || q.cwOnly || !s.banksOpen n d q true
    || (y.sq ++ y.rq).any fun w => w.cwOnly && w.seq < q.seq && w.shares q
/-- What has been sent before an entry and is still on its way: entries of its context; those of the others of its core on one of its channels
(R105); and those with bytes of its granules in a held line (R97, R108). -/
def State.sentAhead (s : State) (n : CoreN) (c : CtxN) (e : Entry) : Bool :=
  (s.ctx n c).ahead e || allCtx.any fun d => ((s.ctx n d).sq ++ (s.ctx n d).rq).any fun q =>
    q.left && q.sent < e.sent && ((d ≠ c && q.shares e && !s.passed n d q) || (!q.held.isEmpty && q.meets e))
/-- Whether an entry that has left may be performed at its home: nothing that was sent before it is in its way, the stores of its context
are not held (R93), and the banks are open (R53). A completion word is a release (R396). -/
def State.mayPerform (s : State) (n : CoreN) (c : CtxN) (e : Entry) : Bool :=
  let x := s.ctx n c
  let ahead := x.sq.takeWhile (· ≠ e)
  e.left && !e.away && !e.reported && !x.holdsBack e && !s.sentAhead n c e
    && !ahead.any (fun q => q.meets e || (q.viaEngine && e.viaEngine))
    && (!e.viaEngine || s.engineFree n) && (!e.cwOnly || s.relWaits n c e.seq 3 none) && s.banksOpen n c e true

/-! ### Results of a store -/

/-- Nothing is reported of a context that was killed (R132). -/
def Ctx.killed (x : Ctx) : Bool := x.run == .ending 5
/-- An entry leaves the store or replay queue. -/
def State.dropStore (s : State) (n : CoreN) (c : CtxN) (e : Entry) : State :=
  let x := s.ctx n c
  s.setCtx n c { x with sq := x.sq.filter (· ≠ e), rq := x.rq.filter (· ≠ e) }
/-- The stores from a place in program order on are held (R93). -/
def State.holdFrom (s : State) (n : CoreN) (c : CtxN) (seq : Nat) : State :=
  let x := s.ctx n c
  s.setCtx n c { x with sqHold := some (match x.sqHold with | some h => min h seq | none => seq) }
/-- From where on the refusal of an entry holds stores: after it; the granules of a TAGSET are separate writes. -/
def Entry.holdSeq (e : Entry) : Nat := match e.kind with | .tagset _ => e.seq | _ => e.seq + 1
/-- An entry that comes back to its queue with a translation that an invalidation under way covers: it will walk again (R127). -/
def State.remark (s : State) (n : CoreN) (x : Ctx) (e : Entry) : Entry :=
  let hit (p : Piece) : Bool := (s.die (dieOf n)).invs.any fun q => invPiece x q.1 q.2.1 q.2.2 p
  { e with pieces := e.pieces.map fun p => if hit p then { p with tr := p.tr.map fun (t : Tr) => { t with marked := true } } else p }
/-- A cause of a released store, with its record: the store waits for the resumption and is then sent again, and the stores after it are
held; for an atomic, or an arrival at its own die, they are not, and it stays where it is (R131, R341). While a stop is held it is left for later (R403). Nothing is reported of a killed context (R132). -/
def State.storeCause (s : State) (n : CoreN) (c : CtxN) (e : Entry) (code sub cls : Nat) (ptr : Word) (hold : Bool)
    (rec' : State → State) : State :=
  let x := s.ctx n c
  if x.killed then (rec' s).dropStore n c e
  else
    let back := { e with left := e.left && !hold, away := false }
    let e' := if back.left then back else s.remark n x back
    let s := s.setCtx n c (x.onEntry e fun _ => e')
    let s := if x.held then s.setCtx n c ((s.ctx n c).onEntry e' fun q => { q with reported := true })
      else (rec' s).stopAt n c e' code sub cls ptr
    if hold then s.holdFrom n c e.holdSeq else s
/-- A refusal at the home. -/
def State.refuseStore (s : State) (n : CoreN) (c : CtxN) (e : Entry) (acc : Nat) (p : Piece) (pa : Nat) (r : HomeRes) : State :=
  match r.cause with
  | none => s
  | some (code, sub, cls) =>
    s.storeCause n c e code sub cls p.ptr (!e.isAtom) fun s => s.homeRec ((s.ctx n c).actor n c) acc p pa r
/-- Some of the pieces of an entry, as an entry of its own. -/
def Entry.only (e : Entry) (ps : List Piece) : Entry := { e with pieces := ps, part := e.part || ps.length < e.pieces.length }
/-- An entry goes on as several, each with some of its pieces. -/
def Ctx.split (x : Ctx) (e : Entry) (parts : List Entry) : Ctx :=
  let f (q : Entry) : List Entry := if q = e then parts.filter fun u => !u.pieces.isEmpty else [q]
  { x with sq := x.sq.flatMap f, rq := x.rq.flatMap f }
/-- Bytes performed at the home go into the core's own line, if present, but for bytes held there. -/
def State.cacheUpd (s : State) (n : CoreN) (pa : Nat) (bs : List Byte) : State :=
  if ((s.core n).cached pa).isNone then s
  else if (List.range bs.length).any fun i => s.heldByte n allCtx (pa + i) then
    (bs.zipIdx).foldl (fun s b => if s.heldByte n allCtx (pa + b.2) then s else s.cacheWrite n (pa + b.2) [b.1]) s
  else s.cacheWrite n pa bs
/-- Bytes of a piece. -/
def Entry.bytesOf (e : Entry) (p : Piece) : List Byte := (e.data.drop p.off).take p.len
/-- A piece written at its home; an early-visible one stands in the core's line already. -/
def State.putPiece (s : State) (n : CoreN) (c : CtxN) (p : Piece) (bs : List Byte) : State :=
  match p.tr with
  | none => s
  | some t =>
    let s := s.homePiece ((s.ctx n c).actor n c) p t bs
    if t.early then s else s.cacheUpd n t.pa bs
/-- The home's word on a list of pieces: the first refusal, else the first report. -/
def State.storeChk (s : State) (a : Actor) (ps : List Piece) : Option (Piece × HomeRes) :=
  let rs := ps.filterMap fun p => p.tr.bind fun t =>
    match s.homeCheck a p t true with | .ok => none | r => some (p, r)
  (rs.find? fun r => r.2.cause.isSome).orElse fun _ => rs.head?
/-- Lines that are only partly written are read through their codes. -/
def State.eccPartial (s : State) (ps : List Piece) : State := s.eccPieces (ps.filter fun p => p.len ≠ 64)
/-- The watchpoint of a store not tested at its release (R401, R418). -/
def State.lateWatch (s : State) (n : CoreN) (c : CtxN) (e : Entry) (ps : List Piece) (rd : Bool) : Option (Nat × Word) :=
  if e.wpDone || (s.ctx n c).killed then none else s.watchHit n c true rd ps
/-- The stop of such a store, which has been performed; later stores are held. -/
def State.lateStop (s : State) (n : CoreN) (c : CtxN) (e : Entry) (w : Option (Nat × Word)) : State :=
  match w with
  | some _ => (s.watchStop n c e w).holdFrom n c (e.seq + 1)
  | none => s

/-! ### Plain stores -/

/-- Whether the home of an entry's first piece is not there for its core: in a reserved region, unpopulated, or beyond a failed or untrained
link (R14, R434, R435). -/
def State.nowhere (s : State) (n : CoreN) (e : Entry) : Bool :=
  match firstPa e.pieces with | some pa => !populated s (dieOf n) pa | none => false
/-- A push by a store: one entry into the bank, or waiting at it (R50, R51). -/
def State.pushStore (s : State) (n : CoreN) (c : CtxN) (e : Entry) (p : Piece) (pa : Nat) : State :=
  if !populated s (dieOf n) pa then s.refuseStore n c e 1 p pa .decode else
  let k := (spadAt pa).1
  let b := (spadAt pa).2
  let q := mget Fifo.zero (s.core k).fifo b
  let bs := e.bytesOf p
  if q.waiting.isEmpty && s.fifoRoom pa bs.length then (s.fifoPush pa bs).dropStore n c e
  else
    let q' := { q with waiting := q.waiting ++ [(ctxKey n c, e.seq, bs)] }
    let s := s.setCore k { s.core k with fifo := mset Fifo.zero (s.core k).fifo b q' }
    s.setCtx n c ((s.ctx n c).onEntry e fun f => { f with away := true })
/-- A store of a control-space register. -/
def State.ctlStore (s : State) (n : CoreN) (c : CtxN) (e : Entry) (p : Piece) (t : Tr) : State :=
  let a := (s.ctx n c).actor n c
  match s.homeCheck a p t true with
  | .ok =>
    let r := (s.dropStore n c e).regWrite (.ctx n c) e.seq t.pa (leWord 64 e.data)
    (match r.2 with
     | .ok => r.1
     | .port => s.storeCause n c e 0x10 6 2 p.ptr true fun s => s.permRec n c 6 1 p.ptr t.pa)
  | r => s.refuseStore n c e 1 p t.pa r
/-- Two pieces share bytes: lanes of a scatter or a strided store, of which the later ones stand (R331). -/
def Piece.over (p q : Piece) : Bool :=
  match p.tr, q.tr with
  | some t, some u => t.pa < u.pa + q.len && u.pa < t.pa + p.len
  | _, _ => false
/-- Of the pieces of a store, those that a step performs: none before an earlier one that it shares bytes with. -/
def State.pickStore (s : State) (l : List Piece) : State × List Piece :=
  let r := s.pick l
  let ps := r.2.filter fun p => (l.takeWhile (· ≠ p)).all fun q => r.2.contains q || !q.over p
  (r.1, if ps.isEmpty then l.take 1 else ps)
/-- A piece of a store of bytes at its home: written, refused with a report, or refused for the supervisor; each piece on its own (R13,
R96, R333). A FIFO bank takes a whole store only (R50). Where the home does not perform an early-visible piece, the spec does not say what the
core's line holds: its bytes stay there (log entry 77). -/
def State.storePiece (s : State) (n : CoreN) (c : CtxN) (e : Entry) (p : Piece) : State × Option HomeRes :=
  let a := (s.ctx n c).actor n c
  match p.tr with
  | none => (s, none)
  | some t =>
    let s := s.eccPartial [p]
    match (if s.fifoMode t.pa then .decode else s.homeCheck a p t true) with
    | .ok => (s.putPiece n c p (e.bytesOf p), none)
    | .report v => (s.homeRec a 1 p v.1 (.report v), none)
    | r => (s, some r)
/-- The refused pieces of a store, in their order: each waits as a store of its own. -/
def State.refusePieces (s : State) (n : CoreN) (c : CtxN) (e : Entry) (l : List (Piece × HomeRes)) : State :=
  l.foldl (fun s q => s.refuseStore n c (e.only [q.1]) 1 q.1 ((q.1.tr.map (·.pa)).getD 0) q.2) s
/-- A store of bytes: a push of exactly one entry of a FIFO bank, a register, or bytes of memory, some of its pieces in one step. Where one is
watched and another refused, the watchpoint is reported, and the refusal after the resumption (R401, R403; log entry 94). -/
def State.plainStore (s : State) (n : CoreN) (c : CtxN) (e : Entry) : State :=
  match e.pieces.head?.bind fun p => p.tr.map fun t => (p, t) with
  | none => s.dropStore n c e
  | some (p, t) =>
    let push := e.kind == .st && !e.part && s.fifoMode t.pa && s.fifoFits e t.pa p.len
    let ctl := regionOf t.pa == .ctl
    let r := if push || ctl then (s, e.pieces) else s.pickStore e.pieces
    let w := s.lateWatch n c e r.2 false
    if s.watchWait n c w then s
    else if push then (s.pushStore n c e p t.pa).lateStop n c e w
    else if ctl then (s.ctlStore n c e p t).lateStop n c e w
    else
      let v := r.2.foldl (fun (v : State × List (Piece × HomeRes)) q =>
        let u := v.1.storePiece n c e q
        (u.1, match u.2 with | some h => v.2 ++ [(q, h)] | none => v.2)) (r.1, [])
      let w := s.lateWatch n c e (r.2.filter fun q => v.2.all (·.1 ≠ q)) false
      let rest := { e.only (e.pieces.filter fun q => !r.2.contains q) with wpDone := e.wpDone || w.isSome }
      let s := v.1.setCtx n c ((v.1.ctx n c).split e (v.2.map (fun q => e.only [q.1]) ++ [rest]))
      (s.lateStop n c e w).refusePieces n c e v.2
/-- Pieces that make a store early-visible (R108). -/
def State.earlyPieces (s : State) (n : CoreN) (e : Entry) : List Piece :=
  if e.rel.isSome || !(match e.kind with | .st | .tst _ _ _ => true | _ => false) then []
  else e.pieces.filter fun p => match p.tr with
    | some t => cacheable t && !t.early && homeDie t.pa ≠ dieOf n && ((s.core n).cached t.pa).isSome
    | none => false
/-- An entry leaves its queue for memory: its early-visible pieces update their lines, which are held from then on, and it has its place
on the channels of its core (R105, R108). -/
def State.sendOut (s : State) (n : CoreN) (c : CtxN) (e : Entry) : State :=
  let ps := s.earlyPieces n e
  let s := ps.foldl (fun s p => match p.tr with | some t => s.cacheWrite n t.pa (e.bytesOf p) | none => s) s
  let k := s.core n
  let e' := { e with
    pieces := e.pieces.map fun p => if ps.contains p then { p with tr := p.tr.map fun (t : Tr) => { t with early := true } } else p
    left := true
    sent := k.sent }
  (s.setCore n { k with sent := k.sent + 1 }).setCtx n c ((s.ctx n c).onEntry e fun _ => e')

/-! ### Tag writes, ownership, barriers, work (R85, R116, R142, R228, R300 to R302) -/

/-- A tag write. -/
def State.tagStore (s : State) (n : CoreN) (c : CtxN) (e : Entry) (tag : BitVec 4) : State :=
  let a := (s.ctx n c).actor n c
  let w := s.lateWatch n c e e.pieces false
  let s := s.eccPieces e.pieces
  if s.watchWait n c w then s
  else match s.storeChk a (e.pieces.map Piece.noTc) with
    | some (p, r) => s.refuseStore n c e 1 p ((p.tr.map (·.pa)).getD 0) r
    | none =>
      let s := e.pieces.foldl (fun s p => match p.tr with
        | some t => ((s.tagSet t.pa (tagPut (s.granOf t.pa) tag)).wakeLine (t.pa / 64)).l2Touch t.pa t.mt true
        | none => s) s
      (s.dropStore n c e).lateStop n c e w
/-- An arrival: applied at its home, or refused (R340, R341). -/
def State.arriveStore (s : State) (n : CoreN) (c : CtxN) (e : Entry) : State :=
  let pa := (firstPa e.pieces).getD 0
  let p := (e.pieces.head?).getD ⟨0, 0, 0, none⟩
  let w := s.creg pa
  if s.poisoned pa && !s.nowhere n e then s.refuseStore n c e 1 p pa .poison
  else if !s.nowhere n e && isBarrier pa && barAdmits w pa n then ((s.dropStore n c e).setCreg pa (arriveWord w)).answerBarrier pa
  else s.storeCause n c e 0x10 2 2 p.ptr (homeDie pa ≠ dieOf n) fun s => s.permRec n c 2 1 p.ptr pa
/-- OWNX at the home's synchronisation engine. -/
def State.ownxStore (s : State) (n : CoreN) (c : CtxN) (e : Entry) (new : BitVec 16) : State :=
  let pa := (firstPa e.pieces).getD 0
  let p := (e.pieces.head?).getD ⟨0, 0, 0, none⟩
  if s.nowhere n e then s.refuseStore n c e 2 p pa .decode
  else match s.ownerAt pa with
  | some q =>
    if s.poisoned q then s.refuseStore n c e 2 p pa .poison
    else if s.ownerOf q = (s.ctx n c).ownid then (s.setCreg (q + 8) (ownSet (s.creg (q + 8)) new.toNat)).dropStore n c e
    else s.refuseStore n c e 2 p pa (.owner pa (s.ownerOf q))
  | none => s.refuseStore n c e 2 p pa (.owner pa 0)
/-- A chunk of a range unit (R227, R228): start, count and the unit's next index. -/
def gssChunk (next fin : Word) (parties minc : Nat) : Word × Word × Word :=
  let rem := if next < fin then fin.toNat - next.toNat else 0
  let p := if parties = 0 then 1 else parties
  let c := min rem (max (max minc 1) ((rem + p - 1) / p))
  (next, BitVec.ofNat 64 c, next + BitVec.ofNat 64 c)
def State.gssStore (s : State) (n : CoreN) (c : CtxN) (e : Entry) (d q : Nat) : State :=
  let pa := (firstPa e.pieces).getD 0
  let p := (e.pieces.head?).getD ⟨0, 0, 0, none⟩
  if s.nowhere n e then s.refuseStore n c e 2 p pa .decode
  else if s.poisoned pa then s.refuseStore n c e 2 p pa .poison else
  let r := gssChunk (s.creg pa) (s.creg (pa + 8)) (fld (s.creg (pa + 16)) 0 16) (fld (s.creg (pa + 24)) 0 32)
  let s := (s.setCreg pa r.2.2).dropStore n c e
  s.setCtx n c ((s.ctx n c).arrive e.seq
    ((if d = 0 then [] else [Write.s d r.1]) ++ if q = 0 then [] else [Write.s q r.2.1]))
/-- The record, or the header and the area, reach a distributor; a piece that is not there is refused, and so is a record for a die that cannot
be reached (R14, R434; log entry 93). -/
def State.workStore (s : State) (n : CoreN) (c : CtxN) (e : Entry) : State :=
  let x := s.ctx n c
  let pa := (firstPa e.pieces).getD 0
  let area := ((e.pieces.find? fun p => 64 ≤ p.off).bind (·.tr)).map (·.pa)
  let far := match e.kind with | .spawn q => !reachable s (dieOf n) (dieReg (q.toNat / 512 % 8) 0) | _ => false
  match e.pieces.find? fun p => far || (match p.tr with | some t => !populated s (dieOf n) t.pa | none => false) with
  | some p => s.refuseStore n c e (e.kind.need p).acc p ((p.tr.map (·.pa)).getD 0) .decode
  | none =>
    let s := s.dropStore n c e
    match e.kind with
    | .trigger => s.trigger n c
    | .spawn q => s.recvSpawn q.toNat pa x.dbg
    | .launch _ => s.recvLaunch (dieOf n) pa (area.getD 0) x.dbg
    | _ => s

/-! ### Berth sends (R63, R126, R343) -/

/-- A message sets out for its target's inbox. -/
def State.sendBerth (s : State) (n : CoreN) (c : CtxN) (e : Entry) (hdl arg : Word) (bs : List Byte) : State :=
  let pa := (firstPa e.pieces).getD 0
  let k := (spadAt pa).1
  let m : Berth := ⟨pa % 0x80000, bs, hdl, arg, BitVec.ofNat 64 n.toNat, some (ctxKey n c, e.seq)⟩
  let s := s.setCore k { s.core k with inbox := (s.core k).inbox ++ [m] }
  s.setCtx n c ((s.ctx n c).onEntry e fun q => { q with away := true })
/-- A send that is refused is performed without effect, and its context is told as of a refused store (R126, R343). -/
def State.refuseSend (s : State) (n : CoreN) (c : CtxN) (e : Entry) (p : Piece) (r : HomeRes) : State :=
  match r.cause with
  | none => s
  | some (code, sub, cls) =>
    let x := s.ctx n c
    let s := (s.dropStore n c e).homeRec (x.actor n c) 1 p ((p.tr.map (·.pa)).getD 0) r
    if x.killed then s else (s.complete n c e code sub cls p.ptr).holdFrom n c e.holdSeq
/-- Whether the window of a berth send lies beyond a failed or untrained link. -/
def State.nowhereBerth (s : State) (n : CoreN) (e : Entry) : Bool :=
  match firstPa e.pieces with | some pa => !reachable s (dieOf n) pa | none => false
/-- A berth send: the window must be reachable. -/
def State.berthStore (s : State) (n : CoreN) (c : CtxN) (e : Entry) (hdl arg : Word) : State :=
  let w := s.lateWatch n c e e.pieces false
  if s.watchWait n c w then s
  else match firstPa e.pieces, e.pieces.head? with
    | some _, some p =>
      if !s.nowhereBerth n e then (s.sendBerth n c e hdl arg e.data).lateStop n c e w
      else if (s.ctx n c).held then s else s.refuseSend n c e p .decode
    | _, _ => s.dropStore n c e

/-! ### Multicast writes (R57, R123) -/

/-- The copy for one target core, with its first byte there. -/
def State.mcastCopy (s : State) (core : Nat) (e : Entry) : State × Nat × HomeRes :=
  let at' (t : Tr) : Nat := t.pa % 0x80000
  let offs := e.pieces.filterMap fun p => p.tr.map fun t => (at' t, e.bytesOf p)
  let ok := offs.all fun o => (linesOf (spadBase core + o.1) o.2.length).all fun l =>
    bankMode (s.core (coreNo core)) (spadBank (64 * l)) = 0
  let first := spadBase core + (offs.map (·.1)).headD 0
  if ok then
    let r := offs.foldl (fun (r : State × HomeRes) o =>
      let t := r.1.mcastTo core o.1 o.2
      (t.1, if r.2 == .ok then t.2 else r.2)) (s, .ok)
    (r.1, first, r.2)
  else (s, first, .decode)
/-- A multicast write: the targets that refuse it stay in its mask. -/
def State.mcastStore (s : State) (n : CoreN) (c : CtxN) (e : Entry) (mask : Word) (l img : Nat) : State :=
  let base := 64 * clusterOf n
  let ts := (List.range 64).filter (bitAt mask)
  let p := (e.pieces.head?).getD ⟨0, 0, 0, none⟩
  let open' := ts.all fun j => e.pieces.all fun q => match q.tr with
    | some t => s.bankOpen n c e.seq true (spadBase (base + j) + t.pa % 0x80000)
    | none => true
  if !open' then s
  else
    let r := ts.foldl (fun (r : State × List (Nat × Nat × HomeRes)) j =>
      let t := r.1.mcastCopy (base + j) e
      (t.1, if t.2.2 == .ok then r.2 else r.2 ++ [(j, t.2)])) (s, [])
    let s := r.1
    match r.2 with
    | [] => s.dropStore n c e
    | bad =>
      let left := bad.foldl (fun (m : Word) b => m ||| ((1 : Word) <<< b.1)) 0
      let e' := { e with kind := .mcast left l img }
      let s := s.setCtx n c ((s.ctx n c).onEntry e fun _ => e')
      let why : HomeRes := if bad.any fun b => b.2.2 == .decode then .decode else .poison
      let k := why.cause.getD (0, 0, 0)
      s.storeCause n c e' k.1 k.2.1 k.2.2 p.ptr true fun s =>
        bad.foldl (fun s b => s.homeRec ((s.ctx n c).actor n c) 1 p b.2.1 b.2.2) s

/-! ### TSEND (R76, R125, R394 to R396) -/

/-- The entry's completion word. -/
def Entry.withCw (e : Entry) (off status bytes : Nat) : List Byte :=
  e.data.take off ++ leBytes 8 (putFld (putFld 0 60 4 status) 0 32 bytes).toNat
/-- Performed, the entry is its completion word, in its place on the channel, or gone. -/
def State.sendRest (s : State) (n : CoreN) (c : CtxN) (e : Entry) (cw : Option Nat) (status bytes : Nat) : State :=
  match cw with
  | none => s.dropStore n c e
  | some off => s.setCtx n c ((s.ctx n c).onEntry e fun q => { q with
      pieces := e.pieces.filter fun (p : Piece) => p.off = off
      data := e.withCw off status bytes, away := false })
/-- A TSEND on its way: the refused pieces, those that wait for room in a FIFO bank, and whether one failed its tag check under TAGPOL 01. -/
structure SendAcc where
  s : State
  bad : List (Piece × HomeRes)
  rest : List Piece
  void : Bool
/-- Pieces as an engine writes them: those of one row in one FIFO bank are one write (R50). -/
def State.sendUnits (s : State) (row : Piece → Nat) : List Piece → List (List Piece)
  | [] => []
  | p :: t =>
    let same (q : Piece) : Bool := match p.tr, q.tr with
      | some u, some v => s.fifoMode u.pa && s.fifoMode v.pa && spadAt u.pa == spadAt v.pa && row p = row q
      | _, _ => false
    match State.sendUnits s row t with
    | (q :: u) :: l => if same q then (p :: q :: u) :: l else [p] :: (q :: u) :: l
    | l => [p] :: l
/-- One write of an engine, each piece checked on its own (R13). What the refold has found damaged need not wait for room. -/
def SendAcc.put (a : SendAcc) (n : CoreN) (c : CtxN) (bytes : Piece → List Byte) (damaged : Bool) (u : List Piece) : SendAcc :=
  match u.head?.bind fun p => p.tr.map fun t => (p, t) with
  | none => a
  | some (p, t) =>
    if !a.rest.isEmpty then { a with rest := a.rest ++ u }
    else if a.s.fifoMode t.pa then
      let bs := u.flatMap bytes
      if bs.length % a.s.fifoEs t.pa ≠ 0 || !populated a.s (dieOf n) t.pa then { a with bad := a.bad ++ u.map fun q => (q, .decode) }
      else if a.s.fifoRoom t.pa bs.length then { a with s := a.s.fifoPush t.pa bs }
      else if damaged then a else { a with rest := u }
    else
      let s := a.s.eccPartial [p]
      let actor := (s.ctx n c).actor n c
      match s.homeCheck actor p t true with
      | .ok => { a with s := s.putPiece n c p (bytes p) }
      | .report v => { a with s := s.homeRec actor 1 p v.1 (.report v), void := true }
      | r => { a with s := s, bad := a.bad ++ [(p, r)] }
/-- The rows, or the completion word, and behind them the sidecar, once every row is written. -/
def State.sendBody (s : State) (n : CoreN) (c : CtxN) (row : Piece → Nat) (bytes : Piece → List Byte) (damaged : Bool) (image side : List Piece) :
    SendAcc :=
  let a := (s.sendUnits row image).foldl (fun a u => a.put n c bytes damaged u) (⟨s, [], [], false⟩ : SendAcc)
  if !a.bad.isEmpty || !a.rest.isEmpty then { a with rest := a.rest ++ side }
  else (s.sendUnits row side).foldl (fun a u => a.put n c bytes damaged u) a
/-- A TSEND on its way: its rows and sidecar, or its message, then its completion word (R394 to R396). `bad` counts the attempts whose refold
differs: after four the bytes at the destination are free values, nothing else is written, and the status is transit mismatch (R76). -/
def State.sendStore (s : State) (n : CoreN) (c : CtxN) (e : Entry) (img rlen : Nat) (berth : Option (Word × Word))
    (cw : Option Nat) (bad : Nat) : State :=
  let w := s.lateWatch n c e e.pieces false
  if s.watchWait n c w then s
  else
    let damaged := 4 ≤ bad && !e.cwOnly
    let body := if e.cwOnly then e.pieces else e.pieces.filter fun (p : Piece) => cw ≠ some p.off
    let word := if e.cwOnly then [] else e.pieces.filter fun (p : Piece) => cw = some p.off
    let image := if e.cwOnly then body else body.filter fun p => p.off < img
    let side := if e.cwOnly || damaged then [] else body.filter fun p => img ≤ p.off
    let row (p : Piece) : Nat := if p.off < img then p.off / rlen else img
    let f := if damaged then s.freeBytes img else (s, e.data)
    let bytes (p : Piece) : List Byte := (f.2.drop p.off).take p.len
    match berth, e.cwOnly with
    | some (hdl, arg), false =>
      if s.nowhereBerth n e then
        if (s.ctx n c).held then s else s.refuseSend n c e ((e.pieces.head?).getD ⟨0, 0, 0, none⟩) .decode
      else if damaged then
        let shut (p : Piece) : Bool := match p.tr with | some t => bankMode (f.1.core (spadAt t.pa).1) (spadAt t.pa).2 ≠ 0 | none => true
        let t := image.foldl (fun (t : State) (p : Piece) => if shut p then t else t.unitPut ((p.tr.map (·.pa)).getD 0) (bytes p)) f.1
        (t.sendRest n c e cw 1 0).lateStop n c e w
      else (s.sendBerth n c e hdl arg (e.data.take img)).lateStop n c e w
    | _, _ =>
      let a := f.1.sendBody n c row bytes damaged image side
      let left := a.bad.map (·.1) ++ a.rest
      if left.isEmpty then
        (if e.cwOnly || a.void then a.s.dropStore n c e
          else a.s.sendRest n c e cw (if damaged then 1 else 0) (if damaged then 0 else img)).lateStop n c e w
      else
        let w := s.lateWatch n c e (e.pieces.filter fun q => !left.contains q) false
        let kind := match e.kind with | .tsend q i r b _ => EKind.tsend q i r b (if a.void then none else cw) | k => k
        let e' := { e.only (left ++ if a.void then [] else word) with kind := kind, wpDone := e.wpDone || w.isSome }
        let s := a.s.setCtx n c ((a.s.ctx n c).onEntry e fun _ => e')
        let s := s.lateStop n c e w
        match a.bad with
        | (p, r) :: _ => s.refuseStore n c e' 1 p ((firstPa [p]).getD 0) r
        | [] => s

/-! ### Atomics (R115, R136, R336, R337) -/

/-- The value an atomic writes. -/
def atomNew (op ty : BitVec 4) (old x cmp : Nat) : Nat :=
  let w := tyW ty
  let x := x % 2 ^ w
  match op.toNat with
  | 0 => (old + x) % 2 ^ w
  | 1 => x
  | 2 => if old = cmp % 2 ^ w then x else old
  | 3 => (BitVec.ofNat 64 old &&& BitVec.ofNat 64 x).toNat
  | 4 => (BitVec.ofNat 64 old ||| BitVec.ofNat 64 x).toNat
  | 5 => (BitVec.ofNat 64 old ^^^ BitVec.ofNat 64 x).toNat
  | 6 => if laneInt ty x < laneInt ty old then x else old
  | 7 => if laneInt ty old < laneInt ty x then x else old
  | _ => laneBin ty (fun a b => a + b) (fun a b => vsum [a, b]) old x
/-- MCDEF set by an event (R137): only the first is recorded. -/
def mcdefSet (w : Word) (kind : Nat) (applied : Bool) (pa : Nat) : Word :=
  if bitAt w 63 then putFld w 61 1 1
  else putFld (putFld (putFld (putFld w 63 1 1) 62 1 (if applied then 1 else 0)) 52 4 kind) 0 52 pa
/-- A deferred machine check, kept over a rollback. -/
def Ctx.machineCheck (x : Ctx) (kind : Nat) (applied : Bool) (pa : Nat) : Ctx :=
  { x with
    a := { x.a with mcdef := mcdefSet x.a.mcdef kind applied pa }
    ck := { x.ck with mcdef := mcdefSet x.ck.mcdef kind applied pa } }
/-- Pieces lost on a failed link (R134, R135): never performed, and reported in MCDEF with APPLIED clear. -/
def State.losePieces (s : State) (n : CoreN) (c : CtxN) (e : Entry) (lost : Nat → Bool) : State :=
  let gone (p : Piece) : Bool := match p.tr with | some t => lost t.pa | none => false
  match e.pieces.find? gone with
  | none => s
  | some p =>
    let s := s.setCtx n c ((s.ctx n c).machineCheck 1 false ((p.tr.map (·.pa)).getD 0))
    let keep := e.pieces.filter fun (p : Piece) => !gone p
    if keep.isEmpty then s.dropStore n c e else s.setCtx n c ((s.ctx n c).onEntry e fun q => q.only keep)
/-- An atomic is over: its value is on its way, an acquire discards the cache. -/
def State.atomDone (s : State) (n : CoreN) (c : CtxN) (e : Entry) (d : Nat) (v : Word) : State :=
  let s := s.dropStore n c e
  let s := s.setCtx n c ((s.ctx n c).arrive e.seq (if d = 0 then [] else [.s d v]))
  if e.acquires then s.discardCache n else s
/-- The home performs an atomic: the state and the old bytes. -/
def State.atomApply (s : State) (n : CoreN) (c : CtxN) (p : Piece) (t : Tr) (op ty : BitVec 4) (x cmp : Word) : State × List Byte :=
  let old := s.rdBytes t.pa p.len
  let new := leBytes p.len (atomNew op ty (leNat old) x.toNat cmp.toNat)
  (((s.homePiece ((s.ctx n c).actor n c) p t new).cacheUpd n t.pa new), old)
/-- An atomic answered with a status. -/
def State.atomAnswer (s : State) (n : CoreN) (c : CtxN) (e : Entry) (st : AtomStatus) : State :=
  match e.kind, e.pieces.head?.bind fun p => p.tr.map fun t => (p, t) with
  | .atom op ty d x cmp tries, some (p, t) =>
    let a := (s.ctx n c).actor n c
    let w := s.lateWatch n c e e.pieces true
    if s.watchWait n c w then s
    else match st with
      | .refused =>
        if tries < 3 then s.setCtx n c ((s.ctx n c).onEntry e fun q => { q with kind := .atom op ty d x cmp (tries + 1) })
        else s.storeCause n c e 7 0 1 p.ptr false id
      | .lost false => (((s.atomDone n c e d 0).setCtx n c (((s.atomDone n c e d 0).ctx n c).machineCheck 2 true t.pa))).watchStop n c e w
      | _ =>
        let s := s.eccPieces e.pieces
        match (if s.fifoMode t.pa then .decode else s.homeCheck a p t true), st with
        | .ok, st =>
          let r := s.atomApply n c p t op ty x cmp
          let v : Word := match st with | .lost _ => 0 | _ => extendBytes p.len (ty < 4) r.2
          let s := r.1.atomDone n c e d v
          let s := match st with
            | .ok => s
            | .lost _ => s.setCtx n c ((s.ctx n c).machineCheck 2 true t.pa)
            | _ => s.setCtx n c ((s.ctx n c).machineCheck 0 true t.pa)
          s.watchStop n c e w
        | .report v, _ =>
          -- R86: not performed, and the context goes on; the spec states no value for its destination
          let f := (s.homeRec a 2 p v.1 (.report v)).free
          (f.2.atomDone n c e d f.1).watchStop n c e w
        | r, _ => s.refuseStore n c e 2 p t.pa r
  | _, _ => s

/-! ### Stores that lose their translation (R127 to R129) -/

/-- What walking the marked pieces of an entry again comes to: those with a translation, those that park, and those that are refused with a
kind of fault record. -/
structure ReWalk where
  ok : List Piece
  park : List (Piece × Nat × Word)
  bad : List (Piece × Nat × Nat × Word)
  deriving DecidableEq, Repr
def State.rewalk (s : State) (n : CoreN) (x : Ctx) (e : Entry) : List Piece → State × ReWalk
  | [] => (s, ⟨[], [], []⟩)
  | p :: t =>
    let go (s : State) (f : ReWalk → ReWalk) : State × ReWalk :=
      let r := State.rewalk s n x e t
      (r.1, f r.2)
    let keep (q : Piece) (w : ReWalk) : ReWalk := { w with ok := q :: w.ok }
    let bad (kind epa : Nat) (ev : Word) (w : ReWalk) : ReWalk := { w with bad := (p, kind, epa, ev) :: w.bad }
    match p.tr with
    | some u =>
      if !u.marked then go s (keep p)
      else
        let va := fld p.ptr 0 48
        let r := s.walk (clusterOf n) x.asid x.ptroot va (e.kind.need p)
        match r.2 with
        | .ok v => go r.1 (keep { p with tr := some (v.tr va) })
        | .park epa ev => go r.1 fun w => { w with park := (p, epa, ev) :: w.park }
        | .malformed epa ev => go r.1 (bad 2 epa ev)
        | .denied epa ev => go r.1 (bad 3 epa ev)
        | .decode epa ev => go r.1 (bad 4 epa ev)
    | none => go s (keep p)
/-- A re-walk that ends in a missing permission or a malformed entry. -/
def State.rewalkBad (s : State) (n : CoreN) (c : CtxN) (e : Entry) (p : Piece) (kind epa : Nat) (ev : Word) : State :=
  let x := s.ctx n c
  let code := if kind = 2 then (4, 2, 1) else if kind = 3 then (0x10, 0, 2) else (0x10, 2, 2)
  s.storeCause n c e code.1 code.2.1 code.2.2 p.ptr (!e.isAtom) fun s =>
    s.faultRec (dieOf n) (e.kind.need p).acc kind p.ptr (idBits n c.toNat x.asid) epa ev
/-- A store parks in the replay queue, where there is room for one more; an atomic parks at the head of its queue, with a page fault, of which
nothing is reported once its context is killed. -/
def State.parkStore (s : State) (n : CoreN) (c : CtxN) (e : Entry) (p : Piece) (epa : Nat) (ev : Word) : State :=
  let x := s.ctx n c
  let line := epa / 64
  let a := s.armWalk (clusterOf n) line
  let rec' (s : State) : State :=
    s.faultRec (dieOf n) (e.kind.need p).acc (if a.2 then 0 else 1) p.ptr (idBits n c.toNat x.asid) epa ev
  if e.isAtom then
    if a.2 then
      let s := if e.park.isNone && !x.killed then rec' a.1 else a.1
      let s := s.setCtx n c ((s.ctx n c).onEntry e fun q => { q with park := some line, was := some line, woken := false, unmon := false })
      if x.run = .live then s.hold n c ⟨4, 0, 0, p.ptr, e.pc, e.slotNo, e.k, 0⟩ else s
    else if x.killed then a.1.setCtx n c (x.onEntry e fun q => { q with park := none, woken := false, unmon := true })
    else a.1.storeCause n c e 4 1 1 p.ptr false rec'
  else if x.killed then
    let more := (x.sq ++ x.rq).any fun q => q != e && q.seq = e.seq && q.marked
    s.setCtx n c { x with
      sq := x.sq.filter (· ≠ e), rq := x.rq.filter (· ≠ e), killCnt := x.killCnt + if more then 0 else 1 }
  else
    let inRq := x.rq.contains e
    if !x.rq.any (fun q => q.seq = e.seq) && 16 ≤ x.rqStores then s
    else
      let s := if (if a.2 then e.park.isNone else !e.unmon) then rec' a.1 else a.1
      let l := if a.2 then some line else none
      let e' := { e with park := l, was := l, woken := false, unmon := !a.2 }
      let x := s.ctx n c
      s.setCtx n c (if inRq then x.onEntry e fun _ => e' else { x with sq := x.sq.filter (· ≠ e), rq := x.rq ++ [e'] })
/-- A marked entry walks again as it leaves the store queue, or the replay queue: a store of bytes piece by piece (R13, R333), any other
entry as a whole. -/
def State.rewalkAt (s : State) (n : CoreN) (c : CtxN) (e : Entry) : State :=
  let r := s.rewalk n (s.ctx n c) e e.pieces
  let w := r.2
  let good (ps : List Piece) : Entry := { e.only ps with park := none, woken := false, unmon := false }
  if (match e.kind with | .st | .tst _ _ _ => true | _ => false) then
    let part (p : Piece) : Entry := e.only [p]
    let s := r.1.setCtx n c (((r.1.ctx n c).split e (w.bad.map (fun q => part q.1) ++ w.park.map (fun q => part q.1) ++ [good w.ok])).wake)
    let s := w.park.foldl (fun s q => s.parkStore n c (part q.1) q.1 q.2.1 q.2.2) s
    w.bad.foldl (fun s q => s.rewalkBad n c (part q.1) q.1 q.2.1 q.2.2.1 q.2.2.2) s
  else match w.bad, w.park with
    | q :: _, _ => r.1.rewalkBad n c e q.1 q.2.1 q.2.2.1 q.2.2.2
    | [], q :: _ => r.1.parkStore n c e q.1 q.2.1 q.2.2
    | [], [] =>
      let e' := good w.ok
      let p := (e.pieces.head?).getD ⟨0, 0, 0, none⟩
      if e'.misplaced n then
        r.1.storeCause n c e 0x10 2 2 p.ptr (!e.isAtom) fun s => s.permRec n c 2 1 p.ptr ((firstPa w.ok).getD 0)
      else
        let s := r.1.setCtx n c (((r.1.ctx n c).onEntry e fun _ => e').wake)
        if e.isAtom then s.atomCheck n c e' else s

/-! ### Performing an entry -/

/-- A CWB at the home: the dirty lines of the superblock are written back to HBM and stay valid (R349). -/
def State.cwbDo (s : State) (e : Entry) : State :=
  match firstPa e.pieces with
  | some pa =>
    if regionOf pa != .hbm then s
    else (List.range 4).foldl (fun s i =>
      let l := pa / 256 * 4 + i
      if s.l2Dirty l then (s.writeBack l).setL2 l 1 else s) s
  | none => s
/-- What performing an entry does. -/
def State.storeDo (s : State) (n : CoreN) (c : CtxN) (e : Entry) (bad : Nat) : State :=
  if e.kind == .cwb then (s.cwbDo e).dropStore n c e
  else if e.pieces.any fun p => match p.tr with | some t => s.peerDead t.pa | none => false then s.losePieces n c e s.peerDead
  else match e.kind with
  | .st | .tst _ _ _ => s.plainStore n c e
  | .tagset tag => s.tagStore n c e tag
  | .arrive => s.arriveStore n c e
  | .ownx new => s.ownxStore n c e new
  | .berth hdl arg _ => s.berthStore n c e hdl arg
  | .mcast mask l img => s.mcastStore n c e mask l img
  | .tsend _ img rlen b cw => s.sendStore n c e img rlen b cw bad
  | .trigger | .spawn _ | .launch _ => s.workStore n c e
  | .gssnext d q => s.gssStore n c e d q
  | _ => s
/-- Whether an entry is what another one has become: the same instance, with a piece of it left. -/
def Entry.isOf (q e : Entry) : Bool :=
  q.seq = e.seq && ((q.pieces.isEmpty && e.pieces.isEmpty) || q.pieces.any fun p => e.pieces.any fun u => u.ptr = p.ptr && u.off = p.off)
/-- An entry leaves the store queue, if it may: one whose translation was lost walks again first (R127). -/
def State.leave (s : State) (n : CoreN) (c : CtxN) (e : Entry) : State :=
  if !(s.ctx n c).sq.contains e || e.left || !s.mayLeave n c e then s
  else if !e.marked then s.sendOut n c e
  else
    let s := s.rewalkAt n c e
    match (s.ctx n c).sq.find? fun q => q.isOf e && !q.left && !q.marked with
    | some q => if s.mayLeave n c q then s.sendOut n c q else s
    | none => s
/-- The entries at the head of a store queue leave it in order, up to the one at index k. -/
def State.leaveTo (s : State) (n : CoreN) (c : CtxN) (k : Nat) : State :=
  ((s.ctx n c).sq.take (k + 1)).foldl (fun s e => s.leave n c e) s
/-- What the entry at index k of a store queue has become once the queue has let go what it may. -/
def State.sentAt (s : State) (n : CoreN) (c : CtxN) (k : Nat) (f : State → Entry → State) : State :=
  let s := s.settleMarks n c
  match (s.ctx n c).sq[k]? with
  | none => s
  | some e =>
    let s := s.leaveTo n c k
    match (s.ctx n c).sq.find? fun q => q.isOf e && s.mayPerform n c q with
    | some q => f s q
    | none => s
/-- The store-queue entry at index k of a context: it leaves its queue, behind those before it, and is performed. -/
def State.storeAt (s : State) (n : CoreN) (c : CtxN) (k bad : Nat) : State :=
  s.sentAt n c k fun s e => match e.kind with
    | .atom _ _ _ _ _ _ => s
    | _ => s.storeDo n c e bad
/-- STORE_PERFORM. -/
def execStorePerform (n : CoreN) (c : CtxN) (k : Nat) (bad : BitVec 3) (s : State) : Out := .next (s.storeAt n c k bad.toNat)
/-- The atomic at index k of a store queue, answered with a status. -/
def State.atomAt (s : State) (n : CoreN) (c : CtxN) (k : Nat) (st : AtomStatus) : State :=
  s.sentAt n c k fun s e => match e.kind, firstPa e.pieces with
    | .atom _ _ _ _ _ _, some pa => s.atomAnswer n c e (if s.peerDead pa then .lost false else st)
    | _, _ => s
/-- ATOMIC_PERFORM. -/
def execAtomicPerform (n : CoreN) (c : CtxN) (k : Nat) (status : AtomStatus) (s : State) : Out := .next (s.atomAt n c k status)
/-- RESULT_ARRIVAL: the access that a result waits for is performed. -/
def execResultArrival (n : CoreN) (c : CtxN) (seq : Nat) (s : State) : Out :=
  let x := s.ctx n c
  match (x.lq.zipIdx).find? fun p => p.1.seq = seq && !p.1.left, (x.sq.zipIdx).find? fun p => p.1.seq = seq && p.1.isAtom with
  | some p, _ => .next (s.loadAt n c p.2)
  | none, some p => (match p.1.kind with
    | .gssnext _ _ => .next (s.storeAt n c p.2 0)
    | _ => .next (s.atomAt n c p.2 .ok))
  | none, none => .next s
/-- BARRIER_ARRIVAL_APPLY: the oldest ARRIVE of the context in focus. -/
def execBarrierArrivalApply (s : State) : Out :=
  let n := s.foc.core
  let c := s.foc.ctx
  match ((s.ctx n c).sq.zipIdx).find? fun p => p.1.kind == .arrive with
  | some p => .next (s.storeAt n c p.2 0)
  | none => .next s

/-! ### The replay queue (R128) -/

/-- An entry of the replay queue that has its translation again is performed; how often the refold of a TSEND differs on the way is a free
value (R76, R125). -/
def State.replayDo (s : State) (n : CoreN) (c : CtxN) (e : Entry) : State :=
  match (s.ctx n c).rq.find? fun q => q.isOf e && s.mayPerform n c q with
  | none => s
  | some q =>
    match q.kind with
    | .tsend _ _ _ _ _ =>
      let f := s.free
      f.2.storeDo n c q (f.1.toNat % 8)
    | _ => s.storeDo n c q 0
/-- An entry of the replay queue walks again, and is sent and performed or parks again; entries on one line in order. -/
def State.replayAt (s : State) (n : CoreN) (c : CtxN) (k : Nat) (timer : Bool) : State :=
  let x := s.ctx n c
  match x.rq[k]? with
  | none => s
  | some e =>
    let first := !(x.rq.take k).any fun q => (q.park = e.park && q.unmon = e.unmon) || (e.park.isSome && q.was = e.park)
    if e.left then s.replayDo n c e
    else if e.reported || !first || x.holdsBack e
      || (if timer then !e.unmon else !(e.woken || e.park.isNone && !e.unmon)) then s
    else
      let s := if e.marked then s.rewalkAt n c e else s
      match (s.ctx n c).rq.find? fun q => q.isOf e && !q.left && !q.marked && !q.reported with
      | some q => (s.sendOut n c q).replayDo n c q
      | none => s
/-- REPLAY_REWALK. -/
def execReplayRewalk (n : CoreN) (c : CtxN) (k : Nat) (s : State) : Out := .next (s.replayAt n c k false)
/-- REPLAY_REWALK_TIMER. -/
def execReplayRewalkTimer (n : CoreN) (c : CtxN) (k : Nat) (s : State) : Out := .next (s.replayAt n c k true)

/-! ### FIFO pushes and berth arrivals at the target (R51, R63, R66, R67) -/

/-- FIFO_PUSH_ACCEPT: the oldest waiting push whose context does not hold its stores (R93) finds an entry free. -/
def execFifoPushAccept (n : CoreN) (b : BitVec 4) (s : State) : Out :=
  let k := s.core n
  let q := mget Fifo.zero k.fifo b.toNat
  let held (w : Nat × Nat × List Byte) : Bool := match (s.ctx (coreNo (w.1 / 4)) (ctxNo (w.1 % 4))).sqHold with
    | some h => h ≤ w.2.1
    | none => false
  match q.waiting.find? fun w => !held w with
  | none => .next s
  | some w =>
    if q.q.length < fifoCap k b.toNat then
      let s := s.setCore n { k with fifo := mset Fifo.zero k.fifo b.toNat { q with q := q.q ++ [w.2.2], waiting := q.waiting.erase w } }
      let m := coreNo (w.1 / 4)
      let c := ctxNo (w.1 % 4)
      let x := s.ctx m c
      let keep (e : Entry) : Bool := !(e.seq = w.2.1 && e.away && e.kind == .st)
      .next (s.setCtx m c { x with sq := x.sq.filter keep, rq := x.rq.filter keep })
    else .next s
/-- The sender's entry of a message. -/
def State.berthSender (s : State) (m : Berth) : Option (CoreN × CtxN × Entry) :=
  m.src.bind fun p =>
    let n := coreNo (p.1 / 4)
    let c := ctxNo (p.1 % 4)
    (((s.ctx n c).sq ++ (s.ctx n c).rq).find? fun e => e.seq = p.2 && e.away && (match e.kind with
      | .berth _ _ _ | .tsend _ _ _ _ _ => true | _ => false)).map fun e => (n, c, e)
/-- The pieces of a message's sidecar, which is written behind its payload (R395). -/
def Entry.sidePieces (e : Entry) : List Piece :=
  match e.kind with
  | .tsend _ img _ _ cw => e.pieces.filter fun p => img ≤ p.off && cw ≠ some p.off
  | _ => []
/-- A message has been performed, and its sidecar is written: its sender's entry is over but for a completion word. -/
def State.berthDone (s : State) (m : Berth) : State :=
  match s.berthSender m with
  | none => s
  | some (n, c, e) =>
    match e.kind with
    | .tsend _ img _ _ cw =>
      let a := (s.sendUnits (fun _ => img) e.sidePieces).foldl (fun a u => a.put n c e.bytesOf false u) (⟨s, [], [], false⟩ : SendAcc)
      if a.void then a.s.dropStore n c e else a.s.sendRest n c e cw 0 img
    | _ => s.dropStore n c e
/-- What a core says of a message: it is taken, it is refused at a piece, or it waits, and with it later messages of its channel, or of its
context only. -/
inductive BerthRes where
  | take
  | refuse (p : Piece) (r : HomeRes)
  | waitChannel
  | waitContext
  deriving DecidableEq, Repr
/-- The payload, judged by the banks it reaches (R63): they are in scratchpad mode, with no part of a poisoned line to be written (R79), or one
FIFO bank takes it. -/
def State.payloadRes (s : State) (n : CoreN) (m : Berth) (p : Piece) : BerthRes :=
  let k := s.core n
  let pa := spadBase n.toNat + m.off
  let len := m.bytes.length
  let banks := ((linesOf pa len).map fun l => spadBank (64 * l)).eraseDups
  if banks.all fun b => bankMode k b = 0 then
    if (cutLines pa (len / 64 + 2) m.bytes).any fun q => q.2.length ≠ 64 && s.poisoned q.1 then .refuse p .poison else .take
  else match banks with
    | [b] =>
      if bankMode k b = 2 && len % fifoEsize k b = 0 then if s.fifoRoom pa len then .take else .waitChannel else .refuse p .decode
    | _ => .refuse p .decode
/-- The sidecar behind a payload: it may be written, it is refused, or it waits at a bank. -/
def State.sideRes (s : State) (n : CoreN) (c : CtxN) (e : Entry) : BerthRes :=
  let us := s.sendUnits (fun _ => 0) e.sidePieces
  let res (u : List Piece) : BerthRes := match u.head?.bind fun p => p.tr.map fun t => (p, t) with
    | none => .take
    | some (p, t) =>
      if !s.bankOpen n c e.seq true t.pa then .waitContext
      else if s.fifoMode t.pa then
        let len := (u.map (·.len)).sum
        if len % s.fifoEs t.pa ≠ 0 then .refuse p .decode else if s.fifoRoom t.pa len then .take else .waitChannel
      else match s.homeCheck ((s.ctx n c).actor n c) p t true with
        | .ok | .report _ => .take
        | r => .refuse p r
  ((us.map res).find? fun r => r != .take).getD .take
/-- What becomes of a message now: it waits while the queue is full (R67), a bank is being switched (but for a message that its own core sent
before that, R53), its FIFO bank has no room (R51), its context holds its stores (R93), or a stop keeps its refusal from being reported
(R403). -/
def State.berthRes (s : State) (n : CoreN) (m : Berth) : BerthRes :=
  let k := s.core n
  let pa := spadBase n.toNat + m.off
  let banks := ((linesOf pa m.bytes.length).map fun l => spadBank (64 * l)).eraseDups
  let before (b : Nat) : Bool := match m.src with
    | some p => p.1 / 4 = n.toNat && p.2 < mget 0 k.bankSince (4 * b + p.1 % 4)
    | none => false
  if 8 ≤ k.berthq.length then .waitChannel
  else if banks.any fun b => bankBusy k b && !before b then .waitContext
  else match s.berthSender m with
    | none => s.payloadRes n m ⟨0, m.bytes.length, 0, none⟩
    | some (a, c, e) =>
      if (s.ctx a c).holdsBack e then .waitContext
      else
        let p := (e.pieces.head?).getD ⟨0, 0, 0, none⟩
        let r := match s.payloadRes n m p with | .take => s.sideRes a c e | r => r
        match r with
        | .refuse _ _ => if (s.ctx a c).held then .waitContext else r
        | _ => r
/-- The first message of the inbox that is taken or refused, each channel (R51, R67) and each context in order. -/
def State.berthPick (s : State) (n : CoreN) : List Berth → List Word → List Nat → Option (Berth × BerthRes)
  | [], _, _ => none
  | m :: t, chans, ctxs =>
    let key := (m.src.map (·.1)).getD (4 * m.sender.toNat)
    if chans.contains m.sender || ctxs.contains key then State.berthPick s n t chans ctxs
    else match s.berthRes n m with
      | .waitChannel => State.berthPick s n t (m.sender :: chans) ctxs
      | .waitContext => State.berthPick s n t chans (key :: ctxs)
      | r => some (m, r)
/-- A message for a core is judged: its bytes are written and it enters the berth queue, or it is refused. -/
def State.berthJudge (s : State) (n : CoreN) : State :=
  match s.berthPick n (s.core n).inbox [] [] with
  | none => s
  | some (m, r) =>
    let s := s.setCore n { s.core n with inbox := (s.core n).inbox.erase m }
    match r with
    | .refuse p r => (match s.berthSender m with | some (a, c, e) => s.refuseSend a c e p r | none => s)
    | _ =>
      let pa := spadBase n.toNat + m.off
      let s := if s.fifoMode pa then s.fifoPush pa m.bytes else s.unitPut pa m.bytes
      (s.setCore n { s.core n with berthq := (s.core n).berthq ++ [m] }).berthDone m
/-- BERTH_ARRIVAL, at the core in focus. -/
def execBerthArrival (s : State) : Out := .next (s.berthJudge s.foc.core)
/-- BERTH_START, at the core in focus. -/
def execBerthStart (s : State) : Out := .next (s.berthServe s.foc.core)

end Sys2Proof.Machine
end

