-- ==== Sys2Proof/Machine/Dist.lean ====
section
/-! DEFINITION. The work distributor at work (R206 to R235): extents rebuilt, records offered and placed, event and mailbox words acted
on, queues taken and reset, conditions tested, launches released, the watchdog. -/

namespace Sys2Proof.Machine

/-! ### Extents rebuilt before a dispatch (R33, R220) -/

/-- What the page table gives a range. -/
structure MapRun where
  pa : Nat
  size : Nat
  mt : Nat
  tc : Bool
  x : Bool
  w : Bool
  rd : Bool
/-- A range mapped, contiguous, within one page-size class, memory type and TC value; the permissions that all its leaves have. The page-table
lines come through their codes (R78). -/
def State.mapRun (s : State) (root : Nat) : Nat → Nat → Nat → State × Option MapRun
  | 0, _, _ => (s, none)
  | fuel + 1, va, len =>
    let s := s.walkLines va 4 root
    match walkDown s va 4 root with
    | .leaf _ ev size =>
      let pa := fld ev 12 40 * 4096 + va % size
      let n := size - va % size
      let one : MapRun := ⟨pa, size, fld ev 10 2, bitAt ev 9, bitAt ev 4, bitAt ev 3, bitAt ev 2⟩
      if len ≤ n then (s, some one)
      else
        let r := State.mapRun s root fuel (va + n) (len - n)
        (r.1, r.2.bind fun r => if r.pa = pa + n && r.size = size && r.mt = one.mt && r.tc = one.tc then
            some { one with x := one.x && r.x, w := one.w && r.w, rd := one.rd && r.rd }
          else none)
    | _ => (s, none)
/-- PSC of a page size. -/
def pscOf (size : Nat) : Nat := match size with | 0x1000 => 0 | 0x10000 => 1 | 0x200000 => 2 | 0x2000000 => 3 | _ => 4
/-- One entry of an extent table rebuilt. A range that is not whole pages of the address space is no mapped range. -/
def State.rebuildEntry (s : State) (rpa xt i : Nat) : State :=
  let at' := xt + 64 + 32 * i
  let w (j : Nat) : Word := s.rd64 (at' + 8 * j)
  let root := fld (s.rd64 xt) 12 40 * 4096
  let v := fld (w 0) 0 48
  let len := fld (w 2) 0 48
  let off (s : State) : State := s.homeWr64 (at' + 24) (putFld (w 3) 0 1 0)
  if !bitAt (w 3) 0 then s
  else if v % 4096 ≠ 0 || len % 4096 ≠ 0 || len = 0 || 2 ^ 48 < v + len then off s
  else
    let q := s.mapRun root (len / 4096 + 1) v len
    match q.2 with
    | none => off q.1
    | some m =>
      let s := q.1
      let r := regionOf m.pa
      let l := if r == .hbm || r == .llc || r == .host then s.takeLease m.pa len rpa else (s, some 0)
      match l.2 with
      | none => off l.1
      | some k =>
        let b (old : Nat) (have' : Bool) : Nat := if bitAt (w 3) old && have' then 1 else 0
        let w3 := putFld (putFld (putFld (putFld (putFld (putFld (putFld (putFld (w 3) 16 16 k) 11 2 m.mt) 8 3 (pscOf m.size)) 6 1 0)
          5 1 (if m.tc then 1 else 0)) 4 1 (b 4 m.x)) 3 1 (b 3 m.w)) 2 1 (b 2 m.rd)
        (l.1.homeWr64 (at' + 8) (putFld (w 1) 0 52 m.pa)).homeWr64 (at' + 24) w3
/-- A record's extent table rebuilt, its leases taken afresh. -/
def State.rebuild (s : State) (h : Held) : State :=
  if bitAt (s.qtab h.q) 1 then s
  else
    let xt := fld (s.recWord h.rpa 2) 6 46 * 64
    let s := (s.dropLeases h.rpa).unitGet xt 576
    let n := fld (s.rd64 (xt + 8)) 16 5
    let s := if 16 < n then s else (List.range n).foldl (fun s i => s.rebuildEntry h.rpa xt i) s
    s.homeWr64 (xt + 16) (s.rd64 (xt + 16) + 1)

/-! ### Candidates (R184, R195, R217, R219, R223) -/

/-- A list in the order of a measure, ties kept. -/
def sortOn (f : Nat → Nat) (l : List Nat) : List Nat :=
  l.foldr (fun a l => (l.takeWhile fun b => f b < f a) ++ [a] ++ (l.dropWhile fun b => f b < f a)) []
/-- A record as a context would read it. -/
def State.recCtx (s : State) (rpa : Nat) : Ctx := { Ctx.zero with recd := s.readRec rpa, rpa := rpa }
/-- A core that a record may be placed on: kind, SRAM, not quarantined, its die in service. -/
def State.coreOk (s : State) (n : CoreN) (x : Ctx) : Bool :=
  let aff := fld (x.w 6) 26 2
  (s.die (dieOf n)).service ≠ 0 && !bitAt (s.creg (verReg n 0)) 0 && !(aff = 1 && isG n) && !(aff = 2 && !isG n)
    && !(bitAt (x.w 6) 24 && (s.core n).capr ≠ 512)
/-- What the distributor of a core's die takes to be in a context: a dispatch not answered, or a residency whose ENDED it has not read. -/
def State.knownAt (s : State) (n : CoreN) (c : CtxN) : Option Placed :=
  let k := s.die (dieOf n)
  (k.offers ++ k.placed ++ k.guests).find? fun p => p.n = n.toNat && p.c = c.toNat && p.gone.isNone
/-- Whether a context is free: no residency, and none that the distributor has still to release. -/
def State.freeCtx (s : State) (n : CoreN) (c : CtxN) : Bool := !(s.ctx n c).resident && (s.knownAt n c).isNone
/-- Unclaimed entries of a core's SLOTTAB. -/
def State.openSlots (s : State) (n : CoreN) : Nat := ((List.range 16).filter fun i => !bitAt (s.core n).slottab (4 * i + 2)).length
/-- The lowest free context of a core, if the record has room there. -/
def State.freeSlot (s : State) (n : CoreN) (x : Ctx) : Option CtxN :=
  if s.coreOk n x && x.mshare ≤ s.openSlots n then
    (allCtx.find? fun c => s.freeCtx n c).bind fun c => if s.room n c x then some c else none
  else none
def State.residents (s : State) (n : CoreN) : Nat := (allCtx.filter fun c => (s.ctx n c).resident).length
/-- Free vector units of a cluster. -/
def State.freeUnits (s : State) (k : Nat) : Nat :=
  64 * 32 - ((s.ctxs.filter fun kv => kv.1 / 256 = k && kv.2.resident).map fun kv => kv.2.vunits).sum
def coresOf (k : Nat) : List Nat := (List.range 64).map (· + 64 * k)
/-- The core and context for a record in a cluster. -/
def State.pickIn (s : State) (x : Ctx) (k : Nat) : Option (CoreN × CtxN) :=
  (sortOn (fun n => s.residents (coreNo n)) (coresOf k)).findSome? fun n => (s.freeSlot (coreNo n) x).map fun c => (coreNo n, c)
/-- On a die: the clusters in order. -/
def State.pickOn (s : State) (x : Ctx) (d : Nat) (clus : Option Nat) : Option (CoreN × CtxN) :=
  (match clus with
    | some k => if k / 4 = d then [k] else []
    | none => sortOn (fun k => 2048 - s.freeUnits k) ((List.range 4).map (· + 4 * d))).findSome? fun k => s.pickIn x k
/-- Mesh steps between dies. -/
def steps (a b : Nat) : Nat := (routeOf a b).length
/-- Home die of the first valid extent that has one on this module. -/
def State.extHome (s : State) (rpa d : Nat) : Nat :=
  let xt := fld (s.recWord rpa 2) 6 46 * 64
  let homes := (List.range (min 16 (fld (s.rd64 (xt + 8)) 16 5))).filterMap fun i =>
    let w3 := s.rd64 (xt + 64 + 32 * i + 24)
    let h := homeDie (fld (s.rd64 (xt + 64 + 32 * i + 8)) 0 52)
    if bitAt w3 0 && h < 8 then some h else none
  homes.headD d
/-- The dies in the order of R217. -/
def State.dieOrder (s : State) (x : Ctx) (d : Nat) : List Nat :=
  let h := s.extHome x.rpa d
  let kind (g : Bool) : List Nat := sortOn (steps h) (if g then [4, 5, 6, 7] else [0, 1, 2, 3])
  match fld (x.w 6) 26 2 with
  | 1 => kind false
  | 2 => kind true
  | _ => kind x.classG ++ kind !x.classG
/-- The core that a pre-empted record left, if it is eligible (R217). -/
def State.leftCore (s : State) (x : Ctx) (sd : Nat) : Option Nat :=
  let k := mget 0 (s.die sd).lastCore x.rpa
  if fld (x.w 0) 60 4 = 3 && k ≠ 0 && s.coreOk (coreNo (k - 1)) x then some (k - 1) else none
/-- The core that a record is proposed to ahead of every step: the one it left, until that has answered NOROOM. -/
def State.firstCore (s : State) (x : Ctx) (h : Held) (sd : Nat) : Option Nat := if h.tried.contains 8 then none else s.leftCore x sd

/-! ### Groups (R223) -/

/-- The group of a record of a launch: its node's group size, and its number. -/
def State.groupOf (s : State) (h : Held) : Option (Nat × Nat) :=
  h.inst.bind fun p =>
    ((s.die p.1).insts.find? fun i => i.area = p.2.1 && !i.pending).bind fun i =>
      i.nodes[p.2.2]?.bind fun v =>
        if v.group = 0 then none else some (v.group, (h.rpa - i.area) / 64 - 1 - v.first)
/-- Copies of a record that fit on a core together. -/
def State.fits (s : State) (n : CoreN) (x : Ctx) : Nat :=
  let used (f : Ctx → Nat) : Nat := (allCtx.map fun c => f (s.ctx n c)).sum
  let free := (allCtx.filter fun c => s.freeCtx n c).length
  if !s.coreOk n x then 0
  else ((List.range (free + 1)).filter fun j => 64 * (used Ctx.vunits + j * x.vunits) ≤ 2048
    && used Ctx.tres + j * x.tres ≤ 136 && used Ctx.mshare + j * x.mshare ≤ 16 && j * x.mshare ≤ s.openSlots n).getLastD 0
/-- Copies of a record that a cluster takes at once. -/
def State.fitsIn (s : State) (x : Ctx) (k : Nat) : Nat := ((coresOf k).map fun n => s.fits (coreNo n) x).sum
/-- The first cluster, in the order of R217 and of the dies that have not answered NOROOM, that takes a number of copies. -/
def State.groupCluster (s : State) (x : Ctx) (h : Held) (d count : Nat) : Option Nat :=
  (((s.dieOrder x d).filter fun t => !h.tried.contains t).flatMap fun t =>
    sortOn (fun k => 2048 - s.freeUnits k) ((List.range 4).map (· + 4 * t))).find? fun k => count ≤ s.fitsIn x k
/-- Records of a list that are in the group of one of them. -/
def State.mates (s : State) (l : List Held) (h : Held) : List Held :=
  match s.groupOf h with
  | none => [h]
  | some (g, i) =>
    l.filter fun m => m.inst = h.inst && m.clus = h.clus && (match s.groupOf m with | some q => q.1 = g && q.2 / g = i / g | none => false)

/-! ### Messages between distributors (R207) -/

def mboxWord (op src rpa arg : Nat) : Word := putFld (putFld (putFld (putFld 0 60 4 op) 57 3 src) 6 46 (rpa / 64)) 0 6 arg
/-- A word written to another die's mailbox. -/
def State.mail (s : State) (src dst op rpa arg : Nat) : State :=
  s.mailWord src dst (mboxWord op src rpa arg)

/-! ### A dispatch (R200, R211, R219) -/

/-- SLOTTAB without a context's entries. -/
def slotsDrop (w : Word) (c : Nat) : Word :=
  (List.range 16).foldl (fun (w : Word) i => if bitAt w (4 * i + 2) && fld w (4 * i) 2 = c then putFld w (4 * i) 4 0 else w) w
/-- SLOTTAB with the lowest unclaimed entries given to a context. -/
def slotsClaim (w : Word) (c k : Nat) : Word :=
  ((List.range 16).foldl (fun (p : Word × Nat) i =>
    if p.2 ≠ 0 && !bitAt p.1 (4 * i + 2) then (putFld p.1 (4 * i) 4 (4 + c), p.2 - 1) else p) (w, k)).1
def State.setSlots (s : State) (n : CoreN) (w : Word) : State := s.setCore n { s.core n with slottab := w }
/-- SLOTS, BANKS and DISPATCH to a core, and the offer noted. -/
def State.sendDispatch (s : State) (d : Nat) (h : Held) (e : Nat) (n : CoreN) (c : CtxN) : State :=
  let x := s.recCtx h.rpa
  let s := (s.setSlots n (slotsClaim (slotsDrop (s.core n).slottab c.toNat) c.toNat x.mshare)).banksCmd n 0
  let p : Placed := ⟨h, n.toNat, c.toNat, 0, e, s.dieNow d, 0, 4, 0, false, none⟩
  (s.mapDie d fun k => { k with offers := k.offers ++ [p] }).dispatchCmd n c h.rpa
/-- A command to the residency of a placement: at its own die, or by its mailbox. -/
def State.command (s : State) (d : Nat) (p : Placed) (op : Nat) : State :=
  let n := coreNo p.n
  let c := ctxNo p.c
  if p.n / 256 ≠ d then s.mail d (p.n / 256) op p.held.rpa 0
  else s.named n c (BitVec.ofNat 16 p.resno) fun s =>
    match op with
    | 4 => s.askPreempt n c 2
    | 5 => s.forceCtx n c
    | _ => s.killCtx n c

/-! ### The offer (R194, R216 to R218, R221, R229) -/

/-- Effective priority. -/
def State.effPrio (s : State) (d : Nat) (h : Held) : Nat :=
  let q := fld (s.qcfg h.q) 32 16
  let p := fld (s.recWord h.rpa 6) 28 3
  min 7 (p + if q = 0 then 0 else (s.dieNow d - h.t0) / (1024 * q))
/-- Whether a record goes before another. -/
def State.before (s : State) (d : Nat) (a b : Held) : Bool :=
  let ea := s.effPrio d a
  let eb := s.effPrio d b
  eb < ea || (ea = eb && (a.t0 < b.t0 || (a.t0 = b.t0 && a.q < b.q)))
/-- A record of a group of which another one still waits on its condition: the group is not complete (R223; log entry 92). -/
def State.mateWaits (s : State) (d : Nat) (h : Held) : Bool :=
  h.clus.isNone && (s.groupOf h).isSome && !(s.mates (s.die d).waitl h).isEmpty
/-- The best ready record. -/
def State.best (s : State) (d : Nat) : Option Held :=
  ((s.die d).ready.filter fun h => s.qOpen h.q && !h.noroom && !s.mateWaits d h).foldl (fun b h =>
    match b with
    | none => some h
    | some g => if s.before d h g then some h else some g) none
def State.takeReady (s : State) (d : Nat) (h : Held) : State := s.mapDie d fun k => { k with ready := k.ready.filter (· ≠ h) }
/-- Put a ready record's new value in its place. -/
def State.putReady (s : State) (d : Nat) (h h' : Held) : State :=
  s.mapDie d fun k => { k with ready := k.ready.map fun g => if g = h then h' else g }
/-- Residencies of every die. -/
def State.allPlaced (s : State) : List Placed :=
  s.dies.flatMap fun kv => (kv.2.placed.filter fun p => p.n / 256 = kv.1) ++ kv.2.guests.filter fun p => p.gone.isNone
/-- The residency that a waiting record may have pre-empted (R218), as long as the log of the die that serves it takes the decision. -/
def State.victim (s : State) (d : Nat) (h : Held) : Option Placed :=
  let x := s.recCtx h.rpa
  let e := s.effPrio d h
  let dies := s.dieOrder x d
  let ok (p : Placed) : Bool :=
    let y := s.ctx (coreNo p.n) (ctxNo p.c)
    dies.contains (p.n / 256) && s.coreOk (coreNo p.n) x && p.e + 2 ≤ e && y.resno.toNat = p.resno
      && y.resident && !y.held && y.run != .dormant && s.canLog (p.held.q / 512)
  if h.preOut.isSome then none
  else (s.allPlaced.filter ok).foldl (fun (b : Option Placed) p =>
    match b with
    | none => some p
    | some q => if p.e < q.e || (p.e = q.e && q.t0 < p.t0) then some p else some q) none
/-- No core has room for a record: it waits, and a pre-emption is asked for it if one may be. -/
def State.noRoom (s : State) (d : Nat) (h : Held) : State :=
  let h' := { h with noroom := true, tried := [] }
  match s.victim d h with
  | none => s.putReady d h h'
  | some p =>
    let s := (s.logNow (p.held.q / 512) ⟨1, 0, p.held.rpa, p.held.q, some (p.n, p.c), s.effPrio d h⟩).qCount p.held.q 2 1
    (s.putReady d h { h' with preOut := some (p.n, p.c) }).command d p 4
/-- A waiting record that has aged enough for a pre-emption (R216, R218). -/
def State.aged (s : State) (d : Nat) : Option Held :=
  (s.die d).ready.find? fun h => h.noroom && s.qOpen h.q && (s.victim d h).isSome
/-- A record goes to a context of this die. -/
def State.placeHere (s : State) (d : Nat) (h : Held) (e : Nat) (n : CoreN) (c : CtxN) : State :=
  ((s.takeReady d h).rebuild h).sendDispatch d h e n c
/-- A record goes to another die's distributor. -/
def State.placeThere (s : State) (d t : Nat) (h : Held) (e : Nat) : State :=
  let s := (s.takeReady d h).rebuild h
  (s.mapDie d fun k => { k with remote := k.remote ++ [{ h with remote := some t }] }).mail d t 1 h.rpa e
/-- The record offered to the dies that are left. -/
def State.offerRest (s : State) (d : Nat) (h : Held) : State :=
  let x := s.recCtx h.rpa
  let e := s.effPrio d h
  let pick (t : Nat) : Option (Nat × Option (CoreN × CtxN)) :=
    if h.tried.contains t then none
    else if t = d then (s.pickOn x d h.clus).map fun p => (t, some p)
    else if (s.die t).service = 0 then none else some (t, none)
  match (match h.clus with | some k => [k / 4] | none => s.dieOrder x d).findSome? pick with
  | none => s.noRoom d h
  | some (_, some (n, c)) => s.placeHere d h e n c
  | some (t, none) => s.placeThere d t h e
/-- The record offered: to the core it left first (R217). -/
def State.offerTo (s : State) (d : Nat) (h : Held) : State :=
  let x := s.recCtx h.rpa
  match s.firstCore x h d with
  | none => s.offerRest d h
  | some n =>
    if n / 256 ≠ d then s.placeThere d (n / 256) h (s.effPrio d h)
    else match s.freeSlot (coreNo n) x with
      | some c => s.placeHere d h (s.effPrio d h) (coreNo n) c
      | none =>
        let h' := { h with tried := h.tried ++ [8] }
        (s.putReady d h h').offerRest d h'
/-- A group goes to one cluster, all its records at once (R223). -/
def State.offerGroup (s : State) (d : Nat) (ms : List Held) (k : Nat) : State :=
  ms.foldl (fun s m =>
    let m' := { m with clus := some k }
    let s := s.putReady d m m'
    let e := s.effPrio d m'
    if k / 4 ≠ d then s.placeThere d (k / 4) m' e
    else match s.pickOn (s.recCtx m.rpa) d (some k) with
      | some (n, c) => s.placeHere d m' e n c
      | none => s) s
/-- What a distributor reads for an offer comes through the code (R78): the control blocks of the queues of its ready records. -/
def State.offerGet (s : State) (d : Nat) : State :=
  ((s.die d).ready.map (·.q)).eraseDups.foldl (fun s q => if bitAt (s.qtab q) 0 then s.unitGet (s.qcb q) 128 else s) s
/-- The AUX with which a record that is to be dispatched is refused: malformed (R190), or with a DBG other than at its first dispatch
(R194). -/
def State.offerBad (s : State) (d : Nat) (h : Held) : Option Nat :=
  let id := fld (s.recWord h.rpa 4) 32 32
  let dbg := bitAt (s.recWord h.rpa 6) 31
  let first := ((s.die d).firstDbg.find? fun q => q.1 = (h.rpa, id)).map (·.2)
  if s.recBad h.rpa then some 1
  else if fld (s.recWord h.rpa 0) 60 4 ≠ 0 && first.getD dbg ≠ dbg then some 3
  else none
/-- RECORD_OFFER, of the distributor of the die in focus. Every record of a group is checked before the group is placed. -/
def execRecordOffer (s : State) : Out :=
  let d := dieOf s.foc.core
  let s := s.offerGet d
  if !s.hartsGo d || !s.canLog d || (s.die d).asking d then .next s
  else match s.best d with
    | none =>
      (match s.aged d with
       | some h => .next (s.noRoom d h)
       | none => .next s)
    | some h =>
      let alone := h.clus.isSome || (s.groupOf h).isNone
      let ms := if alone then [h] else s.mates (s.die d).ready h
      let s := ms.foldl (fun s m => s.unitGet m.rpa 64) s
      match ms.findSome? fun m => (s.offerBad d m).map fun aux => (m, aux) with
      | some (m, aux) => .next ((s.takeReady d m).refuse d m aux)
      | none =>
        if 4 ≤ h.wd then
          let s := (((s.takeReady d h).logNow d ⟨4, 3, h.rpa, h.q, none, 0⟩).qCount h.q 5 1)
          .next (s.instEnded h.inst (some 1))
        else if alone then .next (s.offerTo d h)
        else match s.groupCluster (s.recCtx h.rpa) h d ms.length with
          | none => .next (s.noRoom d h)
          | some k => .next (s.offerGroup d ms k)

/-! ### Answers and endings (R194, R211, R217, R225, R229, R231, R233, R235) -/

/-- A record has been placed: logged on the die that serves it. -/
def State.placedNow (s : State) (d : Nat) (p : Placed) : State :=
  let h := p.held
  let s := s.unitGet h.rpa 64
  let w0 := s.recWord h.rpa 0
  let mig := fld w0 60 4 = 3 && mget 0 (s.die d).lastCore h.rpa ≠ p.n + 1
  let s := (s.logLate d ⟨if mig then 3 else 0, 0, h.rpa, h.q, some (p.n, p.c), 0⟩).qCount h.q 1 1
  let s := if mig then s.qCount h.q 4 1 else s
  let id := fld (s.recWord h.rpa 4) 32 32
  let dbg := bitAt (s.recWord h.rpa 6) 31
  s.mapDie d fun k => { k with
    placed := k.placed ++ [{ p with t0 := s.dieNow d, held := { h with tried := [], preOut := none, remote := none } }]
    firstDbg := if fld w0 60 4 = 0 || !k.firstDbg.any (fun q => q.1 = (h.rpa, id)) then
        ((h.rpa, id), dbg) :: k.firstDbg.filter (fun q => q.1 ≠ (h.rpa, id))
      else k.firstDbg }
/-- ACCEPTED at the die of a core. -/
def State.accepted (s : State) (d n c resno : Nat) : State :=
  match (s.die d).offers.find? fun p => p.n = n && p.c = c with
  | none => s
  | some p =>
    let p' := { p with resno := resno }
    let s := s.mapDie d fun k => { k with offers := k.offers.filter (· ≠ p) }
    let sd := p.held.q / 512
    (if sd = d then s.placedNow d p'
      else (s.mapDie d fun k => { k with guests := k.guests ++ [p'] }).mail d sd 2 p.held.rpa 0).revokeAsks
/-- Every record that found no room is offered again, and a pre-emption asked for it that has ended is outstanding no more (R218). -/
def State.retryAll (s : State) (n c : Nat) : State :=
  s.dies.foldl (fun s kv => s.mapDie kv.1 fun k => { k with
    ready := k.ready.map fun h => { h with
      noroom := false, tried := [], preOut := if h.preOut = some (n, c) then none else h.preOut } }) s
/-- Records of a queue that are dropped: those of a launch count as ended by the reset. -/
def State.dropHeld (s : State) (l : List Held) : State := l.foldl (fun s h => s.instEnded h.inst (some 2)) s
/-- The records of a queue that are not placed are discarded, and its ring entries from HEAD up to TAIL cleared (R230). -/
def State.queueDiscard (s : State) (q : Nat) : State :=
  let d := q / 512
  let cb := s.qcb q
  let mine := (((s.die d).ready ++ (s.die d).waitl ++ (s.die d).refq.map (·.1)).filter fun h => h.q = q)
  let s := (s.mapDie d fun k => { k with
    ready := k.ready.filter (fun h => h.q ≠ q), waitl := k.waitl.filter (fun h => h.q ≠ q), refq := k.refq.filter (fun h => h.1.q ≠ q) }).dropHeld mine
  let head := (s.rd64 (cb + 64)).toNat
  let tail := (s.rd64 cb).toNat
  let size := 2 ^ (fld (s.rd64 (cb + 72)) 0 5 + 4)
  let ring := fld (s.rd64 (cb + 72)) 12 40 * 4096
  let s := (List.range (min size (tail - head))).foldl (fun s i => s.homeWr64 (ring + 8 * ((head + i) % size)) 0) s
  s.homeWr64 (cb + 64) (BitVec.ofNat 64 tail)
/-- A queue's reset ends once no residency of its records is left. -/
def State.resetSettle (s : State) (q : Nat) : State :=
  let d := q / 512
  let cb := s.qcb q
  if !(s.die d).resets.contains q || (s.die d).placed.any fun p => p.held.q = q then s
  else
    let s := ((s.mapDie d fun k => { k with resets := k.resets.filter (· ≠ q) }).unitGet cb 128).queueDiscard q
    let w := s.rd64 (cb + 88)
    let s := s.homeWr64 (cb + 88) (putFld (putFld w 32 32 (fld w 32 32 + 1)) 0 2 (fld (s.rd64 (cb + 8)) 0 1))
    let s := s.homeWr64 (cb + 8) (putFld (s.rd64 (cb + 8)) 1 1 0)
    s.dies.foldl (fun s kv => s.endInsts kv.1 64) s
/-- A residency has ended, as the die that serves its record acts on it; `prog` says that a checkpoint retired in it. A kill by a queue reset is
logged as the supervisor's (log entry 101), and a quarantine's pre-emption is not counted as requested (log entry 102). -/
def State.residencyOver (s : State) (d : Nat) (p : Placed) (reason kills : Nat) (prog : Bool) : State :=
  let h := p.held
  let wd := if 1 ≤ p.stage && (reason = 2 || reason = 3) && !prog then h.wd + 1 else 0
  let core := p.n + 1
  let s := (s.mapDie d fun k => { k with
    placed := k.placed.filter (· ≠ p), lastCore := mset 0 k.lastCore h.rpa (if reason = 2 || reason = 3 || reason = 7 then core else 0) }).dropLeases h.rpa
  let h := { h with wd := wd, left := some (p.n / 256), watch := false, tried := [], noroom := false, preOut := none, remote := none }
  let s := match reason with
    | 0 | 1 => s.takeIn d h
    | 2 | 3 => s.makeReady d h
    | 7 => (s.logLate d ⟨1, 2, h.rpa, h.q, some (p.n, p.c), 0⟩).mapDie d fun k => { k with ready := k.ready ++ [h] }
    | 4 => s.instEnded h.inst none
    | 5 =>
      let why := if p.killWhy = 5 then 4 else p.killWhy
      ((s.logLate d ⟨4, why, h.rpa, h.q, some (p.n, p.c), kills⟩).qCount h.q 5 1).instEnded h.inst (some 1)
    | _ =>
      let v : Decision := ⟨5, 0, h.rpa, h.q, some (p.n, p.c), 2⟩
      if s.canLog d then (s.logNow d v).refuse d h 0 else (s.logLate d v).refuseSoon d h 0
  (s.retryAll p.n p.c).resetSettle h.q
/-- ENDED at the die of a core: slot table and banks are released, unless the context holds a later residency already, and the serving
die acts or is told. -/
def State.ended (s : State) (d n c arg : Nat) : State :=
  let reason := arg % 16
  let kills := arg / 16 % 2 ^ 16
  let resno := arg / 2 ^ 20 % 2 ^ 16
  let s := match s.knownAt (coreNo n) (ctxNo c) with
    | some p => if p.resno = resno then (s.setSlots (coreNo n) (slotsDrop (s.core (coreNo n)).slottab c)).banksCmd (coreNo n) 0 else s
    | none => (s.setSlots (coreNo n) (slotsDrop (s.core (coreNo n)).slottab c)).banksCmd (coreNo n) 0
  let mine (p : Placed) : Bool := p.n = n && p.c = c && p.resno = resno && p.gone.isNone
  match (s.die d).placed.find? mine, (s.die d).guests.find? mine with
  | some p, _ => s.residencyOver d p reason kills p.prog
  | none, some p =>
    (s.mapDie d fun k => { k with guests := k.guests.map fun q => if q = p then { p with gone := some kills } else q }).mail d
      (p.held.q / 512) 7 p.held.rpa reason
  | none, none => s
/-- A place in a die's event queue goes to an event that a core holds (R210). -/
def State.evtRefill (s : State) (d : Nat) : State :=
  match s.cores.find? fun kv => kv.1 / 256 = d && !kv.2.evts.isEmpty with
  | some (n, k) =>
    (s.setCore (coreNo n) { k with evts := k.evts.drop 1 }).mapDie d fun y => { y with evt := y.evt ++ k.evts.take 1 }
  | none => s
/-- A hart acts on an event word. R234 does not say on which die the record of a quarantine is logged, nor its QUEUEID, RPA and CTXID: it is
logged on the core's die, with those 0 (log entry 86). -/
def State.actEvent (s : State) (d : Nat) (w : Word) : State :=
  let n := 256 * d + 64 * fld w 50 2 + fld w 52 6
  let c := fld w 58 2
  let arg := fld w 0 50
  match fld w 60 4 with
  | 1 => s.accepted d n c (arg % 2 ^ 16)
  | 2 =>
    (match (s.die d).offers.find? fun p => p.n = n && p.c = c with
     | none => s
     | some p =>
       let s := s.mapDie d fun k => { k with offers := k.offers.filter (· ≠ p) }
       if p.held.q / 512 = d then (s.dropLeases p.held.rpa).mapDie d fun k => { k with ready := k.ready ++ [p.held] }
       else s.mail d (p.held.q / 512) 3 p.held.rpa 0)
  | 3 => s.ended d n c arg
  | 4 =>
    (match s.knownAt (coreNo n) (ctxNo c) with
     | some p =>
       let f (q : Placed) : Placed := if q = p && arg ≠ 0 then { p with prog := true } else q
       (s.mapDie d fun k => { k with placed := k.placed.map f, guests := k.guests.map f }).qCount p.held.q 7 arg
     | none => s)
  | 5 => s.logLate d ⟨6, 0, 0, 0, some (n, 0), 0⟩
  | _ => s
/-- What a hart of a die reads comes into one of its registers: which hart and which register belong to the microcode, and a free value picks
them (log entry 74). -/
def State.hartTakes (s : State) (d : Nat) (v : Word) : State :=
  let f := s.free
  let i := f.1.toNat % 4
  f.2.mapDie d fun k =>
    let h := mget .zero k.harts i
    { k with harts := mset .zero k.harts i { h with x := mset 0 h.x (1 + f.1.toNat / 4 % 31) v } }
/-- DISTEVT_READ: the die's own hart pops an event and acts on it; from an empty queue 0 comes. -/
def execDisteventRead (d : DieN) (w : Master) (s : State) : Out :=
  let pa := dieReg d.toNat 0x300018
  if w = .hart d then
    if !s.hartsFree d.toNat then .next s
    else match (s.die d.toNat).evt with
      | [] => .next (s.hartTakes d.toNat 0)
      | v :: t => .next ((((s.hartTakes d.toNat v).mapDie d.toNat fun k => { k with evt := t }).evtRefill d.toNat).actEvent d.toNat v)
  else .next (s.portViol w 0 pa)

/-! ### The mailbox (R207) -/

/-- The first write of a die's harts that can go on: nothing before it goes to the same die, and a mailbox has room for it. -/
def State.outReady (s : State) (src : Nat) : Option (Nat × Nat × Word) :=
  let l := (s.die src).outbox
  ((l.zipIdx).find? fun p => !(l.take p.2).any (fun q => q.1 = p.1.1)
    && (p.1.2.1 ≠ dieReg p.1.1 0x300038 || (s.die p.1.1).mbox.length < 1024)).map (·.1)
/-- One such write is performed. -/
def State.outStep (s : State) (src : Nat) (o : Nat × Nat × Word) : State :=
  let s := s.mapDie src fun k => { k with outbox := k.outbox.erase o }
  if o.2.1 = dieReg o.1 0x300038 then s.mapDie o.1 fun k => { k with mbox := k.mbox ++ [o.2.2] }
  else (s.regDo (.hart (BitVec.ofNat 3 src)) 0 o.2.1 o.2.2).1
/-- The writes that have waited at mailboxes go on as far as there is room, those of the lowest die first (log entry 74); what the harts of a
die have to write after them follows. -/
def State.outFlush (s : State) : Nat → State
  | 0 => s
  | fuel + 1 =>
    match s.dies.findSome? fun kv => (s.outReady kv.1).map fun o => (kv.1, o) with
    | some (src, o) => State.outFlush (s.outStep src o) fuel
    | none => s
/-- A place in a mailbox is free again. What the harts of a die could not do while a write of theirs waited follows (log entry 74). -/
def State.mailRoom (s : State) : State :=
  if s.dies.all fun kv => kv.2.outbox.isEmpty then s
  else s.dies.foldl (fun s kv => (s.logSpace kv.1).takeReqs kv.1) (s.outFlush (s.dies.map fun kv => kv.2.outbox.length).sum)
/-- DISTMBOXRD_READ: the die's own hart takes the oldest word, to act on it; from an empty queue 0 comes. -/
def execDistmboxrdRead (d : DieN) (w : Master) (s : State) : Out :=
  if w = .hart d then
    let k := s.die d.toNat
    if !s.hartsRun d.toNat then .next s
    else match k.mbox with
      | v :: t =>
        .next (((s.setDie d.toNat { k with mbox := t, mread := if 7 < fld v 60 4 then k.mread else k.mread ++ [putFld v 52 5 0] }).hartTakes
          d.toNat v).mailRoom)
      | [] => .next (s.hartTakes d.toNat 0)
  else .next (s.portViol w 0 (dieReg d.toNat 0x300040))
/-- The oldest word that a hart has read is acted on. -/
def State.onMail (s : State) (d : DieN) (op : Nat) (src : DieN) (r : PAddr) (arg : BitVec 6) (f : State → Nat → Nat → State) : State :=
  let w := mboxWord op src.toNat r.toNat arg.toNat
  if (s.die d.toNat).mread.head? = some w && s.hartsFree d.toNat then
    f (s.mapDie d.toNat fun k => { k with mread := k.mread.drop 1 }) src.toNat (r.toNat / 64 * 64)
  else s
/-- The serving die's hold on a record that it has sent to another die. -/
def State.heldAt (s : State) (sd rpa : Nat) : Option Held := (s.die sd).remote.find? fun h => h.rpa = rpa
/-- A PLACE word: the record goes to the core it left, if it is proposed to that, else to a core of this die, or NOROOM is answered. -/
def State.placeOne (s : State) (d sd : Nat) (h : Held) (e : Nat) : State :=
  let s := s.unitGet h.rpa 64
  let x := s.recCtx h.rpa
  let pick := match s.firstCore x h sd with
    | some n => if n / 256 = d then (s.freeSlot (coreNo n) x).map fun c => (coreNo n, c) else s.pickOn x d h.clus
    | none => s.pickOn x d h.clus
  match pick with
  | some (n, c) => s.sendDispatch d h e n c
  | none => s.mail d sd 3 h.rpa 0
/-- The PLACE words of a group are answered together, at the first of them: all its records are placed, or none (R223). -/
def State.placeGroup (s : State) (d sd : Nat) (h : Held) (ms : List Held) (e : Nat) : State :=
  let s := s.mapDie d fun k => { k with answered := k.answered ++ (ms.filter (· ≠ h)).map (·.rpa) }
  if ms.length ≤ s.fitsIn (s.recCtx h.rpa) (h.clus.getD 0) then ms.foldl (fun s m => s.placeOne d sd m e) s
  else ms.foldl (fun s m => s.mail d sd 3 m.rpa 0) s
/-- MBOX_PLACE. -/
def execMboxPlace (d : DieN) (src : DieN) (r : PAddr) (arg : BitVec 6) (s : State) : Out :=
  .next (s.onMail d 1 src r arg fun s sd rpa =>
    if (s.die d.toNat).answered.contains rpa then s.mapDie d.toNat fun k => { k with answered := k.answered.erase rpa }
    else match s.heldAt sd rpa with
      | none => s
      | some h =>
        let ms := s.mates (s.die sd).remote h
        if ms.length < 2 then s.placeOne d.toNat sd h arg.toNat else s.placeGroup d.toNat sd h ms arg.toNat)
/-- MBOX_PLACED. -/
def execMboxPlaced (d : DieN) (src : DieN) (r : PAddr) (arg : BitVec 6) (s : State) : Out :=
  .next (s.onMail d 2 src r arg fun s sd rpa =>
    match s.heldAt d.toNat rpa, (s.die sd).guests.find? fun p => p.held.rpa = rpa with
    | some h, some p =>
      (s.mapDie d.toNat fun k => { k with remote := k.remote.filter (· ≠ h) }).placedNow d.toNat { p with held := h, gone := none }
    | _, _ => s)
/-- MBOX_NOROOM: the record is offered elsewhere; of a group that has not been placed yet, to another cluster. -/
def execMboxNoroom (d : DieN) (src : DieN) (r : PAddr) (arg : BitVec 6) (s : State) : Out :=
  .next (s.onMail d 3 src r arg fun s sd rpa =>
    match s.heldAt d.toNat rpa with
    | some h =>
      let by' := match s.firstCore (s.recCtx rpa) h d.toNat with | some n => if n / 256 = sd then 8 else sd | none => sd
      let clus := if fld (s.recWord rpa 0) 60 4 = 0 then none else h.clus
      (s.dropLeases rpa).mapDie d.toNat fun k => { k with
        remote := k.remote.filter (· ≠ h), ready := k.ready ++ [{ h with remote := none, clus := clus, tried := h.tried ++ [by'] }] }
    | none => s)
/-- A command word for a resident record of this die's cores. -/
def State.onGuest (s : State) (d rpa op : Nat) : State :=
  match ((s.die d).guests ++ (s.die d).placed).find? fun p => p.held.rpa = rpa && p.gone.isNone with
  | some p => s.command d p op
  | none => s
def execMboxPreempt (d : DieN) (src : DieN) (r : PAddr) (arg : BitVec 6) (s : State) : Out :=
  .next (s.onMail d 4 src r arg fun s _ rpa => s.onGuest d.toNat rpa 4)
def execMboxForce (d : DieN) (src : DieN) (r : PAddr) (arg : BitVec 6) (s : State) : Out :=
  .next (s.onMail d 5 src r arg fun s _ rpa => s.onGuest d.toNat rpa 5)
def execMboxKill (d : DieN) (src : DieN) (r : PAddr) (arg : BitVec 6) (s : State) : Out :=
  .next (s.onMail d 6 src r arg fun s _ rpa => s.onGuest d.toNat rpa 6)
/-- MBOX_ENDED: the serving die acts on the end of a residency on another die. -/
def execMboxEnded (d : DieN) (src : DieN) (r : PAddr) (arg : BitVec 6) (s : State) : Out :=
  .next (s.onMail d 7 src r arg fun s _ rpa =>
    match (s.die d.toNat).placed.find? (fun p => p.held.rpa = rpa), (s.die src.toNat).guests.find? (fun p => p.held.rpa = rpa) with
    | some p, some g =>
      (s.mapDie src.toNat fun k => { k with guests := k.guests.filter (· ≠ g) }).residencyOver d.toNat p (arg.toNat % 16)
        (g.gone.getD 0) g.prog
    | _, _ => s)

/-! ### Queues (R213 to R215, R230) -/

/-- Ring entries taken in order. -/
def State.takeEntries (s : State) (q : Nat) : Nat → State
  | 0 => s
  | fuel + 1 =>
    let cb := s.qcb q
    let d := q / 512
    let h := (s.rd64 (cb + 64)).toNat
    let size := 2 ^ (fld (s.rd64 (cb + 72)) 0 5 + 4)
    let slot := fld (s.rd64 (cb + 72)) 12 40 * 4096 + 8 * (h % size)
    let s := s.unitGet slot 8
    let e := s.rd64 slot
    if (s.rd64 cb).toNat ≤ h || !bitAt e 0 then s
    else
      let bad := fld e 52 12 ≠ 0 || fld e 1 5 ≠ 0
      if bad && !s.canLog d then s
      else
        let s := ((s.homeWr64 slot 0).homeWr64 (cb + 64) (BitVec.ofNat 64 (h + 1))).qCount q 0 1
        let r := Held.new (fld e 6 46 * 64) q (s.dieNow d) none
        State.takeEntries (if bad then s.refuse d r 4 else s.takeIn d r) q fuel
/-- A queue reset (R230): it ends at once, or with the last of the residencies that it kills. -/
def State.queueReset (s : State) (q : Nat) : State :=
  let d := q / 512
  let cb := s.qcb q
  let s := s.homeWr64 (cb + 88) (putFld (s.rd64 (cb + 88)) 0 2 2)
  let s := s.logNow d ⟨7, 0, 0, q, none, 0⟩
  let reset (i : Inst) : Inst := if i.nodes.any (fun v => v.q = q) then { i with causes := i.causes ||| 4 } else i
  let s := s.dies.foldl (fun (s : State) kv => s.mapDie kv.1 fun k => { k with insts := k.insts.map reset }) s
  let s := s.mapDie d fun k => { k with
    resets := k.resets ++ [q], placed := k.placed.map fun p => if p.held.q = q then { p with killWhy := 5 } else p }
  let s := ((s.die d).placed.filter fun p => p.held.q = q).foldl (fun (s : State) p => s.command d p 6) s
  (s.queueDiscard q).resetSettle q
/-- The QCB monitor of a queue wakes; its aging and watchdog values take effect (R213). A RESET written while one runs is absorbed. -/
def State.wakeQueue (s : State) (q : Nat) : State :=
  let d := q / 512
  let cb := s.qcb q
  let s := if bitAt (s.qtab q) 0 then s.unitGet cb 128 else s
  let ctl := s.rd64 (cb + 8)
  if !s.hartsGo d || !bitAt (s.qtab q) 0 || (s.die d).resets.contains q then s
  else
    let s := s.mapDie d fun k => { k with qcfg := mset 0 k.qcfg q (s.rd64 (cb + 80)) }
    if bitAt ctl 1 then if s.canLog d && !(s.die d).asking d then s.queueReset q else s
    else
      let st := if bitAt ctl 0 then 1 else 0
      let w := s.rd64 (cb + 88)
      let s := if fld w 0 2 = st then s else s.homeWr64 (cb + 88) (putFld w 0 2 st)
      if st = 0 then s else s.takeEntries q (min (2 ^ 20) ((s.rd64 cb).toNat - (s.rd64 (cb + 64)).toNat))
/-- QUEUE_WAKE. -/
def execQueueWake (q : BitVec 12) (s : State) : Out := .next ((s.wakeQueue q.toNat).rearm (q.toNat / 512))

/-! ### Waiting records (R192, R208) -/

/-- The condition of a waiting record is tested. -/
def State.wakeRec (s : State) (d rpa : Nat) : State :=
  if !s.hartsFree d then s
  else match (s.die d).waitl.find? fun h => h.rpa = rpa with
    | some h => s.retest d h
    | none => s
/-- RCOND_WAKE. -/
def execRcondWake (d : DieN) (r : PAddr) (s : State) : Out := .next ((s.wakeRec d.toNat r.toNat).rearm d.toNat)
/-- PHASE_WATCH_RETRY: a phase watch that found the list full is placed again, 256 core cycles later as a WAITP's request is (R342). -/
def execPhaseWatchRetry (d : DieN) (r : PAddr) (s : State) : Out :=
  let d := d.toNat
  match (s.die d).waitl.find? fun h => h.rpa = r.toNat && !h.watch && fld (s.recWord h.rpa 0) 56 4 = 1 with
  | none => .next s
  | some h =>
    if s.dieNow d < h.retryAt || !s.hartsFree d then .next s
    else
      let t := s.retest d h
      if !(t.die d).waitl.contains h then .next t
      else
        let h' := if t.listed (homeDie (fld (t.recWord h.rpa 7) 0 52)) < 4096 then { h with watch := true }
          else { h with retryAt := s.dieNow d + 256 }
        .next (t.mapDie d fun k => { k with waitl := k.waitl.map fun g => if g = h then h' else g })
/-- POLL_SWEEP: each line of the die in focus that has no monitor is read, the longest polled first, and acted on as a wake. -/
def execPollSweep (s : State) : Out :=
  let d := dieOf s.foc.core
  let s := s.rearm d
  .next (((s.die d).polls.foldl (fun s w => match w with
    | .queue q | .entry q => s.wakeQueue q
    | .rec' rpa => s.wakeRec d rpa) s).rearm d)
/-- LAUNCH_RELEASE: the first launch of the die in focus that waits on an exclusive graph whose instances have ended. -/
def execLaunchRelease (s : State) : Out :=
  let d := dieOf s.foc.core
  match (s.die d).insts.find? fun i => i.pending && !s.running i.hdr with
  | some i => if s.canLog d && s.hartsGo d then .next ((s.mapDie d fun k => { k with insts := k.insts.erase i }).startLaunch d i) else .next s
  | none => .next s

/-! ### The watchdog (R229) -/

/-- The placement of a context that the die which serves its record has acted on: its watchdog counts for no other (log entry 78). -/
def State.watched (s : State) (n : CoreN) (c : CtxN) : Option Placed :=
  s.dies.findSome? fun kv => kv.2.placed.find? fun p => p.held.rpa = (s.ctx n c).rpa && p.held.q / 512 = kv.1
/-- The watchdog's action on the context in focus, once its count reaches W plus some graces; a checkpoint retired since the
pre-emption was asked for cancels the escalation. -/
def State.watchdog (s : State) (stage graces : Nat) (f : State → Nat → Placed → State) : State :=
  let n := s.foc.core
  let c := s.foc.ctx
  let x := s.ctx n c
  match s.watched n c with
  | none => s
  | some p =>
    let d := p.held.q / 512
    let w := s.qcfg p.held.q
    let per := fld w 16 16
    let due := 1024 * per + graces * (1024 * max 1 (fld w 0 16))
    let now := if p.stage = 1 && p.ckAt ≠ x.ckSeq then 0 else p.stage
    if per = 0 || x.wdCnt < due || now ≠ stage || !s.hartsGo d || !s.canLog d || !x.resident then s
    else
      let p' := { p with stage := stage + 1, ckAt := x.ckSeq }
      f (s.mapDie d fun k => { k with placed := k.placed.map fun q => if q = p then p' else q }) d p'
/-- WATCHDOG_PREEMPT. -/
def execWatchdogPreempt (s : State) : Out :=
  .next (s.watchdog 0 0 fun s d p =>
    ((s.logNow d ⟨1, 3, p.held.rpa, p.held.q, some (p.n, p.c), 0⟩).qCount p.held.q 2 1).command d p 4)
/-- WATCHDOG_FORCE. -/
def execWatchdogForce (s : State) : Out :=
  .next (s.watchdog 1 1 fun s d p =>
    ((s.logNow d ⟨2, 0, p.held.rpa, p.held.q, some (p.n, p.c), 0⟩).qCount p.held.q 3 1).command d p 5)
/-- WATCHDOG_KILL. -/
def execWatchdogKill (s : State) : Out :=
  .next (s.watchdog 2 2 fun s d p =>
    let p' := { p with killWhy := 3 }
    (s.mapDie d fun k => { k with placed := k.placed.map fun q => if q = p then p' else q }).command d p' 6)

end Sys2Proof.Machine
end

