-- ==== Sys2Proof/Machine/Verify.lean ====
section
/-! DEFINITION. Steps of a core beside its contexts: the switch of a bank (R53), the arbiter (R181, R182), the scores' decay and the
known-answer outcomes (R184, R187), a double error in a register file (R80). -/

namespace Sys2Proof.Machine

/-! ### Banks (R47, R53) -/

/-- BANKMODE_SWITCH: a context writes BANKMODEn; another than its owner commits a violation. -/
def execBankmodeSwitch (n : CoreN) (c : CtxN) (b : BitVec 4) (v : Word) (s : State) : Out :=
  let x := s.ctx n c
  if !x.resident then .next s
  else if (s.core n).bankOwned c b.toNat then .next (s.bankWrite n b.toNat v (v &&& 0x40))
  else if x.held then .next s
  else
    let a : Word := BitVec.ofNat 64 (0x40 + b.toNat)
    .next ((s.hold n c ⟨0x10, 5, 2, a, x.a.pc, 0, x.a.rep.toNat, 0⟩).permRec n c 5 1 a 0)
/-- Whether a piece of an entry is stored in a bank of a core, as far as its translation is known: a multicast write's where it names that
core. -/
def Entry.storesIn (e : Entry) (n : CoreN) (b : Nat) (p : Piece) : Bool :=
  match e.kind, p.tr with
  | _, none => true
  | .mcast mask _ _, some t => bitAt mask (n.toNat % 64) && t.pa % 0x80000 / 0x8000 = b
  | _, some t => let base := spadBase n.toNat + 0x8000 * b; base ≤ t.pa && t.pa < base + 0x8000
/-- A store of a context, issued before the switch, that the bank still has to perform. -/
def State.bankDue (s : State) (n : CoreN) (b : Nat) (c : CtxN) : Bool :=
  let x := s.ctx n c
  let since := mget 0 (s.core n).bankSince (4 * b + c.toNat)
  (x.pound ++ x.sq ++ x.rq).any fun e => e.seq < since && e.pieces.any (e.storesIn n b)
/-- A bank that has drained takes its new mode. -/
def Core.bankTake (k : Core) (b : Nat) : Core :=
  let w := mget 0 k.bankmode b
  let m := fld w 2 2
  let w := if m = 2 then putFld (putFld w 18 2 (fld w 10 2)) 16 2 (fld w 8 2) else w
  { k with
    bankmode := mset 0 k.bankmode b (putFld (putFld (putFld w 8 4 0) 7 1 0) 0 2 m)
    bankSince := msets 0 k.bankSince (allCtx.map fun c => (4 * b + c.toNat, 0))
    fifo := mset Fifo.zero k.fifo b Fifo.zero
    cache := if fld w 0 2 = 1 then [] else k.cache }
/-- BANK_SWITCH_COMPLETE. -/
def execBankSwitchComplete (n : CoreN) (b : BitVec 4) (s : State) : Out :=
  let k := s.core n
  let i := b.toNat
  if !bankBusy k i || allCtx.any (s.bankDue n i) || !(mget Fifo.zero k.fifo i).waiting.isEmpty
      || (bankMode k i = 1 && !(s.heldLines n).isEmpty) then .next s
  else
    let base := spadBase n.toNat + 0x8000 * i
    .next ((s.zeroRange base (base + 0x8000)).setCore n (k.bankTake i))

/-! ### Arbitration (R181 to R183) -/

/-- LASTBLAME. -/
def blameWord (engine src c acc row : Nat) (pc : Word) : Word :=
  putFld (putFld (putFld (putFld (putFld (putFld 0 62 2 engine) 60 2 src) 58 2 c) 56 2 acc) 51 5 row) 0 48 (fld pc 0 48)
/-- Code of the blamed engines. -/
def blameCode (p q : Bool) : Nat := (if p then 1 else 0) + if q then 2 else 0
/-- Fold of one row of an engine's cells. -/
def rowFold (cells : List (Nat × Word)) (i : Nat) : Word := foldCells (cells.filter fun c => c.1 / 32 = i)
/-- Whether an engine's fold differs from the arbiter's in a differing row. -/
def Dispute.wrong (d : Dispute) (cells : List (Nat × Word)) : Bool := d.rows.any fun i => rowFold cells i != rowFold d.exact i
/-- The confirmed cell at a position of a differing row; in the other rows each engine keeps its own. -/
def Dispute.cell (d : Dispute) (q : Nat) : Option Word :=
  if d.rows.contains (q / 32) then (d.exact.find? fun c => c.1 = q).map (·.2) else none
/-- The disputed result with the confirmed rows in both copies, its folds corrected by the difference, and its bound. -/
def Dispute.fix (d : Dispute) : Write → Write
  | .acc r cells prec ba fp fs =>
    if r = d.acc then
      let new := cells.map fun c => (c.1, (d.cell c.1).getD c.2.1, (d.cell c.1).getD c.2.2)
      let diff (f : Word × Word → Word) : Word :=
        foldCells (new.map fun c => (c.1, f c.2)) - foldCells (cells.map fun c => (c.1, f c.2))
      .acc r new prec (some d.ba) (fp + diff (·.1)) (fs + diff (·.2))
    else .acc r cells prec ba fp fs
  | w => w
/-- The dispute of a context is settled. -/
def Ctx.settle (x : Ctx) (d : Dispute) : Ctx :=
  { x with
    pend := x.pend.map fun p => if p.seq = d.seq && p.pc = d.pc then { p with ws := p.ws.map d.fix } else p
    a := { x.a with ev := x.a.ev.write d.acc ((d.exact.filter fun c => d.rows.contains (c.1 / 32)).map fun c => (c.1, c.2, c.2)) none (some d.ba) }
    dispute := none
    scSettled := true }
/-- The arbiter's verdict on the dispute of a context. -/
def State.arbitrate (s : State) (n : CoreN) (c : CtxN) (d : Dispute) : State :=
  let p := d.wrong d.prim
  let q := d.wrong d.shad
  let s := s.setCtx n c ((s.ctx n c).settle d)
  let s := s.setCreg (verReg n 0x20) (blameWord (blameCode p q) 0 c.toNat d.acc (d.rows.headD 0) d.pc)
  let s := (s.satAdd (verReg n 0x10) 32 32 1).blame n p q 16
  if (s.ctx n c).forceReq && !(s.ctx n c).held then s.beginPreempt n c 3 else s
/-- Whether a context stands stopped because the arbitration of its dispute has failed. -/
def Ctx.unsettled (x : Ctx) : Bool := x.held && fld x.a.trapcause 0 8 = 0x0B
/-- ARBITER_SERVE: the oldest request. Arbitration that fails stops the context, whose TRAPPC names the disputed instruction's bundle with
TRAPSLOT 7; the dispute keeps its place, and the arbiter serves it again after the resumption (R181 says neither; log entry 79). A context
that is held for another cause already is not stopped once more: its dispute is served again. -/
def execArbiterServe (cl : ClusterN) (agree : Bool) (s : State) : Out :=
  let k := s.cluster cl.toNat
  let ctxOf (q : Nat × Nat × Nat) : Ctx := s.ctx (coreNo q.2.1) (ctxNo q.2.2)
  let live := k.arb.filter fun q => (ctxOf q).dispute.isSome
  match live.find? fun q => !(ctxOf q).unsettled with
  | none => .next s
  | some q =>
    let n := coreNo q.2.1
    let c := ctxNo q.2.2
    match (ctxOf q).dispute with
    | none => .next s
    | some d =>
      let x := s.ctx n c
      if agree then .next ((s.setCluster cl.toNat { k with arb := live.filter (· ≠ q) }).arbitrate n c d)
      else if x.held then .next s
      else .next (s.hold n c ⟨0x0B, 0, 1, BitVec.ofNat 64 (d.acc + 16 * d.rows.headD 0), d.pc, 7, x.a.rep.toNat, 0⟩)

/-! ### Scores (R184, R187) -/

/-- CLEANCNT_WRAP, of the core in focus. -/
def execCleancntWrap (s : State) : Out :=
  let n := s.foc.core
  let cnt := s.creg (verReg n 0x18)
  if cnt.toNat < 2 ^ 20 then .next s
  else
    let s := s.setCreg (verReg n 0x18) (cnt - 0x100000)
    if bitAt (s.creg (verReg n 0)) 1 then
      let w := s.creg (verReg n 8)
      .next (s.setCreg (verReg n 8) (putFld (putFld w 8 8 (fld w 8 8 - 1)) 0 8 (fld w 0 8 - 1)))
    else .next s
/-- The outcome of a known-answer run. Where both engines fail with different signatures R187 does not say what LASTBLAME names: it names
both, with SRC 1 (log entry 80). -/
def State.katDone (s : State) (n : CoreN) (k : Kat) : State :=
  let p := k.prim != k.want
  let q := k.shad != k.want
  let word (e src : Nat) : Word := blameWord e src k.ctx 0 0 k.pc
  if !p && !q then s
  else if p && q && k.prim == k.shad then (s.satAdd (verReg n 0x10) 0 8 1).setCreg (verReg n 0x20) (word 3 2)
  else
    ((s.satAdd (verReg n 0x10) 8 8 (if p && q then 2 else 1)).setCreg (verReg n 0x20) (word (blameCode p q) 1)).blame n p q 32
/-- MKAT_OUTCOME: the oldest run of the core in focus, once its time has come. -/
def execMkatOutcome (s : State) : Out :=
  let n := s.foc.core
  let k := s.core n
  match k.kats with
  | [] => .next s
  | a :: t => if a.done ≤ k.cyc.toNat then .next ((s.setCore n { k with kats := t }).katDone n a) else .next s

/-! ### Double errors (R80) -/

/-- Whether a memory array under the code of R80 holds the line of an address: a bank in scratchpad or FIFO mode, a window of the LLC, an
L2 or the LLC with a line of HBM (free within log entry 58), or a synchronisation engine's SRAM. -/
def State.inArray (s : State) (pa : Nat) : Bool :=
  match regionOf pa with
  | .hbm => s.l2Has (pa / 64)
  | .llc | .spad => populated s (homeDie pa) pa
  | .ctl =>
    let off := (pa - ctlBase) % 0x10000000
    pa - ctlBase < 0x80000000 && ((0x310000 ≤ off && off < 0x320800) || 0x6000000 ≤ off)
  | _ => false
/-- REGISTER_DOUBLE_ERROR of a register: state with a checkpoint copy is restored by a rollback, other state stops the context. A context
that is ending uses its state once more where that is saved (R407). -/
def State.regError (s : State) (n : CoreN) (c : CtxN) (copied : Bool) : Out :=
  let x := s.ctx n c
  let used : Bool := match x.run with
    | .vacant => false
    | .ending r => r = 2 || r = 3 || r = 7
    | _ => true
  if !used then .next s
  else if copied then .next (if x.held then s.setCtx n c { x with rollReq := true } else s.rollback n c 4)
  else if x.held then .next s
  else .next (s.hold n c ⟨6, 1, 1, 0, x.a.pc, 7, x.a.rep.toNat, 0⟩)
/-- REGISTER_DOUBLE_ERROR: in a memory array it poisons the line. -/
def execRegisterDoubleError (n : CoreN) (c : CtxN) (site : ErrSite) (s : State) : Out :=
  match site with
  | .reg copied => s.regError n c copied
  | .cache pa =>
    let k := s.core n
    .next (if (k.cached pa.toNat).isSome then s.setCore n { k with cpoison := pa.toNat / 64 :: k.cpoison.filter (· ≠ pa.toNat / 64) } else s)
  | .array pa => .next (if s.inArray pa.toNat then s.setPoison (pa.toNat / 64) true else s)

end Sys2Proof.Machine
end

