-- ==== Sys2Proof/Machine/Host.lean ====
section
/-! DEFINITION. The host's accesses (R37, R79, R93, R120, R427, R428), and the key rollover of its link's streams (R429). -/

namespace Sys2Proof.Machine

/-! ### Completions -/

def State.mapPkg (s : State) (f : Pkg → Pkg) : State := { s with pkg := f s.pkg }
/-- IDE stream of a number. -/
def Pkg.stream (p : Pkg) (i : Nat) : Ide := mget .zero p.ide i
def Pkg.setStream (p : Pkg) (i : Nat) (x : Ide) : Pkg := { p with ide := mset .zero p.ide i x }
/-- The device sends a flit on a stream: under its present slot, into the replay buffer. -/
def Ide.sendFlit (x : Ide) : Ide := { x with unacked := x.unacked ++ [(x.nextSeq, x.slot)], nextSeq := x.nextSeq + 1 }
/-- A completion returns to the host, as a flit of the link stream. -/
def State.complete' (s : State) (off : Nat) (r : Cpl) : State :=
  s.mapPkg fun p => { p.setStream 0 (p.stream 0).sendFlit with hostCpl := p.hostCpl ++ [(off, r)] }
/-- Whether a host function is stopped (R93). -/
def Pkg.stopped (p : Pkg) (rid : BitVec 16) : Bool := p.hostStopped.contains rid.toNat

/-! ### What a request reaches -/

/-- Physical address behind a base address range. -/
def barPa (bar2 : Bool) (off : Nat) : Nat := if bar2 then ctlBase + off else off
/-- What a request comes to before it is performed: it may go on, it waits for a bank, or it is a violation of a class (R92). -/
inductive HostGate where
  | ok
  | wait
  | viol (cls : Nat)
  deriving DecidableEq, Repr
/-- The ports that are forbidden to the host: DISPCMD and DISTEVT (R428). -/
def hostPort (pa : Nat) : Bool :=
  let off := (pa - ctlBase) % 0x10000000
  pa - ctlBase < 0x80000000 && ((0x300018 ≤ off && off < 0x300020) || (0x400000 ≤ off && off < 0x400800))
/-- Requests to control space: aligned 8-byte reads and writes of a populated register, which the host link on DIEID 0 reaches. -/
def State.hostCtl (s : State) (pa len : Nat) (plain : Bool) : HostGate :=
  if hostPort pa then .viol 2
  else if plain && len = 8 && pa % 8 = 0 && regionOf pa == .ctl && populated s 0 pa then .ok
  else .viol 3
/-- Requests to local space. A bank that is being switched holds every access (R53); a FIFO bank takes writes of one entry (R50). -/
def State.hostLocal (s : State) (pa len : Nat) (push : Bool) : HostGate :=
  let ps := (linesOf pa len).map fun l => max pa (64 * l)
  if 2 ^ 42 < pa + len then .viol 3
  else if ps.any fun a => regionOf a == .spad && bankBusy (s.core (spadAt a).1) (spadAt a).2 then .wait
  else if ps.any fun a => regionOf a == .ctl || !populated s 0 a then .viol 3
  else if ps.any s.fifoMode then
    if push && len = s.fifoEs pa && pa % len = 0 then if s.fifoRoom pa len then .ok else .wait else .viol 3
  else .ok
def State.hostGate (s : State) (bar2 : Bool) (off len : Nat) (push : Bool) : HostGate :=
  if bar2 then s.hostCtl (barPa true off) len true else s.hostLocal off len push

/-! ### Writes and reads -/

/-- A host write of a part of a line, whose other bytes are read through the code (R78): a part of a poisoned line is dropped (R79). -/
def State.hostPut (s : State) (pa : Nat) (bs : List Byte) : State :=
  let s := if bs.length = 64 then s else s.eccRead (pa / 64)
  if s.poisoned pa && bs.length ≠ 64 then s
  else
    let s := if bs.length = 64 then s.clearPoison pa 0 else s
    (s.homeWrite pa bs).l2Touch pa 0 true
/-- The bytes of a host write, line by line. -/
def State.hostPuts (s : State) (pa : Nat) (bs : List Byte) : State :=
  (cutRun ⟨0, BitVec.ofNat 64 pa, bs.length, 0⟩ (bs.length / 64 + 2) 0).foldl (fun s p =>
    s.hostPut p.2.ptr.toNat ((bs.drop p.2.off).take p.2.len)) s
/-- A posted write, unless it has to wait. A stopped function's writes are held; 8 bytes of a poisoned line are dropped (R79, R80). -/
def State.hostWr (s : State) (rid : BitVec 16) (bar2 : Bool) (o : Nat) (bytes : List Byte) : Option State :=
  let pa := barPa bar2 o
  if s.pkg.stopped rid then some (s.mapPkg fun p => { p with hostHeld := p.hostHeld ++ [(rid.toNat, pa, bytes)] })
  else match s.hostGate bar2 o bytes.length true with
    | .wait => none
    | .viol cls => some (s.hostViol rid cls 1 pa)
    | .ok =>
      if bar2 then
        if s.poisoned pa then some s
        else
          let r := s.regWrite (.host rid) 0 pa (leWord 64 bytes)
          match r.2 with
          | .port => some (r.1.hostViol rid 2 1 pa)
          | .ok => some r.1
      else if s.fifoMode pa then some (s.fifoPush pa bytes)
      else some (s.hostPuts pa bytes)
/-- A read: its completion carries the bytes, or is a Completer Abort. -/
def State.hostRd (s : State) (rid : BitVec 16) (bar2 : Bool) (o len : Nat) : Option State :=
  let pa := barPa bar2 o
  if s.pkg.stopped rid then some (s.complete' pa .abort)
  else match s.hostGate bar2 o len false with
    | .wait => none
    | .viol cls => some ((s.hostViol rid cls 0 pa).complete' pa .abort)
    | .ok =>
      if bar2 then
        if s.poisoned pa then some (s.complete' pa .abort)
        else
          let r := s.regRead pa
          match r.2 with
          | .port => some ((s.hostViol rid 2 0 pa).complete' pa .abort)
          | .ok => some (s.complete' pa (.data (leBytes 8 r.1.toNat)))
      else
        let s := (linesOf pa len).foldl (fun s l => (s.eccRead l).l2Touch (64 * l) 0 false) s
        if (linesOf pa len).any fun l => s.poisoned (64 * l) then some (s.complete' pa .abort)
        else some (s.complete' pa (.data (s.rdBytes pa len)))
/-- What a host AtomicOp leaves. -/
def hostAtomNew (op : HostAtom) (old v cmp : Nat) : Nat :=
  match op with
  | .fetchAdd => old + v
  | .swap => v
  | .cas => if old = cmp then v else old
/-- An AtomicOp on local space, by the unit of R337; control space takes none. A 128-bit one is an Unsupported Request. -/
def State.hostAt (s : State) (rid : BitVec 16) (bar2 : Bool) (o : Nat) (op : HostAtom) (wide : BitVec 2) (v cmp : Word) : Option State :=
  let pa := barPa bar2 o
  let len := if wide = 0 then 4 else 8
  if 1 < wide.toNat then some (s.complete' pa .unsupported)
  else if s.pkg.stopped rid then some (s.complete' pa .abort)
  else match (if bar2 then s.hostCtl pa len false else if pa % len = 0 then s.hostLocal pa len false else .viol 3) with
    | .wait => none
    | .viol cls => some ((s.hostViol rid cls 2 pa).complete' pa .abort)
    | .ok =>
      let s := s.eccRead (pa / 64)
      if s.poisoned pa then some (s.complete' pa .abort)
      else
        let old := s.rdBytes pa len
        let new := leBytes len (hostAtomNew op (leNat old) (v.toNat % 2 ^ (8 * len)) (cmp.toNat % 2 ^ (8 * len)))
        some ((s.hostPut pa new).complete' pa (.data old))

/-! ### The order of requests (R120) -/

/-- What performs a request: none where it has to wait for a bank. -/
def State.hostDo (s : State) : HostReq → Option State
  | .write rid bar2 o bytes _ => s.hostWr rid bar2 o bytes
  | .read rid bar2 o len => s.hostRd rid bar2 o len
  | .atom rid bar2 o op wide v cmp => s.hostAt rid bar2 o op wide v cmp
def HostReq.rid : HostReq → BitVec 16
  | .write r _ _ _ _ | .read r _ _ _ | .atom r _ _ _ _ _ _ => r
def HostReq.posted : HostReq → Bool
  | .write _ _ _ _ _ => true
  | _ => false
/-- Whether a request waits behind the earlier posted writes of its requester: all but a write with Relaxed Ordering do. -/
def HostReq.behind (r : HostReq) (earlier : List HostReq) : Bool :=
  match r with
  | .write _ _ _ _ true => false
  | _ => earlier.any fun q => q.posted && q.rid = r.rid
/-- Requests in their order of receipt; `kept` are the earlier ones that wait. -/
def State.hostRun (s : State) : List HostReq → List HostReq → State
  | [], kept => s.mapPkg fun p => { p with hostq := kept }
  | r :: t, kept =>
    if r.behind kept then s.hostRun t (kept ++ [r])
    else match s.hostDo r with
      | none => s.hostRun t (kept ++ [r])
      | some u => u.hostRun t kept
/-- The requests that wait, then a new one, over a link that is up. -/
def State.hostReq (s : State) (new : List HostReq) : State := if s.pkg.pcie then s.hostRun (s.pkg.hostq ++ new) [] else s
/-- HOST_WRITE: a posted write of at most 512 bytes arrives, or what waits is tried again. -/
def execHostWrite (rid : BitVec 16) (bar2 : Bool) (off : BitVec 42) (w : HostWr) (s : State) : Out :=
  let put (bytes : List Byte) (relaxed : Bool) : State :=
    if 512 < bytes.length then s else s.hostReq [.write rid bar2 off.toNat bytes relaxed]
  .next (match w with
    | .ordered bytes => put bytes false
    | .relaxed bytes => put bytes true
    | .waiting => s.hostReq [])
/-- HOST_READ: of at most 4096 bytes. -/
def execHostRead (rid : BitVec 16) (bar2 : Bool) (off : BitVec 42) (len : Nat) (s : State) : Out :=
  .next (if 4096 < len then s else s.hostReq [.read rid bar2 off.toNat len])
/-- HOST_ATOMICOP. -/
def execHostAtomicop (rid : BitVec 16) (off : HostOff) (op : HostAtom) (wide : BitVec 2) (v cmp : Word) (s : State) : Out :=
  .next (s.hostReq [match off with
    | .bar0 o => .atom rid false o.toNat op wide v cmp
    | .bar2 o => .atom rid true o.toNat op wide v cmp])

/-! ### IDE (R429) -/

/-- The transmitter moves to a slot; while a slot is not yet retired the rollover waits. -/
def Ide.roll (x : Ide) (slot : BitVec 1) : Ide :=
  if x.old.isSome then { x with queued := some slot }
  else if slot = x.slot then x
  else { x with old := if x.unacked.isEmpty then none else some x.slot, slot := slot }
/-- IDE_KEY_ROLLOVER. -/
def execIdeKeyRollover (stream : BitVec 3) (slot : BitVec 1) (s : State) : Out :=
  if 4 < stream.toNat then .next s
  else .next (s.mapPkg fun p => p.setStream stream.toNat ((p.stream stream.toNat).roll slot))
/-- Flits up to a number are acknowledged; the old slot is retired with its last one, and a waiting rollover goes ahead. -/
def Ide.ack (x : Ide) (seq : Nat) : Ide :=
  let left := x.unacked.filter fun f => seq < f.1
  let y := { x with unacked := left }
  match x.old with
  | none => y
  | some a =>
    if left.any fun f => f.2 = a then y
    else match x.queued with
      | some b => { y with old := none, queued := none }.roll b
      | none => { y with old := none }
/-- A flit is taken: received in order where it is the next one. -/
def Ide.took (x : Ide) (slot : BitVec 1) (seq : Nat) : Ide :=
  { x with
    rxNext := if seq = x.rxNext then seq + 1 else x.rxNext
    badAt := if x.badAt = some seq then none else x.badAt
    rxTop := mset 0 x.rxTop slot.toNat (max (mget 0 x.rxTop slot.toNat) (seq + 1)) }
/-- Whether a flit under the other slot can be the first of the next rollover: the transmitter begins none before the old slot is retired,
so every flit before the present slot's first has been received in order, and none of them is being requested again. -/
def Ide.rolls (x : Ide) (seq : Nat) : Bool :=
  x.rxFrom ≤ x.rxNext && x.rxNext ≤ seq && (x.rxFrom < seq || x.rxFrom = 0)
    && match x.badAt with | some b => decide (x.rxFrom ≤ b) | none => true
/-- Whether a flit under the present slot that precedes the first one received under it was first encrypted under it as well: it is the next
in order, behind every flit taken under the other slot (log entry 109). -/
def Ide.precedes (x : Ide) (slot : BitVec 1) (seq : Nat) : Bool := seq = x.rxNext && mget 0 x.rxTop (~~~slot).toNat ≤ seq
/-- A flit arrives: under the present slot it follows the first flit of that slot, or is an earlier one that came damaged; under the other
slot it must precede it, or be the first of the next rollover. A flit that is rejected is requested again. -/
def Ide.receive (x : Ide) (slot : BitVec 1) (seq : Nat) : Ide :=
  if slot = x.rxSlot then
    if x.rxFrom ≤ seq then x.took slot seq
    else if x.precedes slot seq then { x.took slot seq with rxFrom := seq }
    else { x with badAt := some seq }
  else if seq < x.rxFrom then x.took slot seq
  else if x.rolls seq then { x.took slot seq with rxSlot := slot, rxFrom := seq }
  else { x with badAt := some seq }
/-- A flit reported bad, or an acknowledgement: a replay goes out again under the slots its flits had. -/
def Ide.onFlit (x : Ide) : LinkFlit → Ide
  | .flit _ slot seq => x.receive slot seq
  | .ack _ seq => x.ack seq
  | .bad _ _ => x
def linkStream : LinkFlit → Nat
  | .flit i _ _ | .ack i _ | .bad i _ => i.toNat
/-- HOST_LINK_FLIT: streams 0 (link) to 4. -/
def execHostLinkFlit (f : LinkFlit) (s : State) : Out :=
  let i := linkStream f
  if 4 < i then .next s else .next (s.mapPkg fun p => p.setStream i ((p.stream i).onFlit f))

end Sys2Proof.Machine
end

