-- ==== Sys2Proof/Machine/Package.lean ====
section
/-! DEFINITION. The package (chapter 18): Weator and towpath links (R133 to R135, R430, R431), bring-up (R433 to R436), power and
cooling (R437, R438), and the measurements (R426, R439). -/

namespace Sys2Proof.Machine

def pkgStat : Nat := dieReg 0 0x700008
def pwrStat : Nat := dieReg 0 0x700018
def pkgFail : Nat := dieReg 0 0x700020
/-- A register with one bit set. -/
def oneBit (i : Nat) : Word := (1 : Word) <<< i

/-! ### Failures -/

/-- A unit fails: its bit in PKGFAIL, reported to the host as an MCTP event and over I3C (R434, R439; log entry 43 for the event's words). -/
def State.unitFails (s : State) (bit : Nat) : State :=
  let s := s.orCreg pkgFail (oneBit bit)
  s.mapPkg fun p => { p with mctp := p.mctp ++ [s.creg pkgFail], i3c := p.i3c ++ [s.creg pkgFail] }
/-- Pieces that a failure loses. -/
def Entry.hits (e : Entry) (lost : Nat → Bool) : Bool := e.pieces.any fun p => match p.tr with | some t => lost t.pa | none => false
/-- The accesses of a context that are under way when a link fails: what has left and neither is refused nor held (log entry 20). -/
def State.underWay (s : State) (n : CoreN) (c : CtxN) (lost : Nat → Bool) : List Entry :=
  let x := s.ctx n c
  (x.sq ++ x.rq).filter fun e => e.hits lost && e.left && !e.away && !e.marked && !e.reported && !x.holdsBack e
/-- Flits not delivered are never performed (R134, R136). An atomic, a GSSNEXT among them (R228), is answered LOST: its destinations read 0. -/
def State.loseCtx (s : State) (n : CoreN) (c : CtxN) (lost : Nat → Bool) : State :=
  (s.underWay n c lost).foldl (fun s e =>
    let lostAtom (s : State) : State := s.setCtx n c ((s.ctx n c).machineCheck 2 true ((firstPa e.pieces).getD 0))
    match e.kind with
    | .atom _ _ d _ _ _ => lostAtom (s.atomDone n c e d 0)
    | .gssnext d q =>
      let s := s.dropStore n c e
      lostAtom (s.setCtx n c ((s.ctx n c).arrive e.seq ((if d = 0 then [] else [Write.s d 0]) ++ if q = 0 then [] else [Write.s q 0])))
    | _ => s.losePieces n c e lost) s
def State.loseAll (s : State) (lost : Nat → Nat → Bool) : State :=
  s.ctxs.foldl (fun s kv => s.loseCtx (coreNo (kv.1 / 4)) (ctxNo (kv.1 % 4)) (lost (kv.1 / 1024))) s

/-! ### Flits (R133, R430) -/

/-- One step of CRC-32C on a byte, least significant bit first. -/
def crcBits : Nat → BitVec 32 → BitVec 32
  | 0, c => c
  | k + 1, c => crcBits k (if bitAt c 0 then (c >>> 1) ^^^ 0x82F63B78 else c >>> 1)
def crc32c (bs : List Byte) : BitVec 32 := ~~~(bs.foldl (fun c b => crcBits 8 (c ^^^ b.setWidth 32)) 0xFFFFFFFF)
/-- The CRC of a flit: header bits [63:32], then the payload. -/
def flitCrc (hdr : Word) (payload : BitVec 512) : BitVec 32 := crc32c (leBytes 4 (fld hdr 32 32) ++ leBytes 64 payload.toNat)
/-- Damaged: a bad CRC or a reserved KIND. -/
def flitBad (hdr : Word) (payload : BitVec 512) : Bool := flitCrc hdr payload != hdr.setWidth 32 || 5 < fld hdr 36 4
/-- Flits from one sequence number to another. -/
def flitsTo (a b : Nat) : Nat := (b + 4096 - a) % 4096
/-- The flits that the replay buffer of a direction's sender holds. -/
def Link.held (x : Link) : Nat := flitsTo x.acked x.sent
/-- Whether a sender sends a flit: it holds the flit, or it is a new one and the replay buffer has room (R430). -/
def Link.sends (x : Link) (seq : Nat) : Bool := flitsTo x.acked seq < x.held || (seq = x.sent && x.held < 1024)
/-- The flit has gone out; the sender goes on with the one after it. -/
def Link.send (x : Link) (seq : Nat) : Link :=
  { x with next := (seq + 1) % 4096, sent := if seq = x.sent then (seq + 1) % 4096 else x.sent }
/-- The sequence number of a flit that arrives; that of a damaged one is what its sender sends next. -/
def Link.seqOf (x : Link) (hdr : Word) (payload : BitVec 512) : Nat := if flitBad hdr payload then x.next else fld hdr 52 12
/-- Whether the receiver of a direction accepts a flit: undamaged, and the next in sequence. -/
def Link.takes (x : Link) (hdr : Word) (payload : BitVec 512) : Bool :=
  !flitBad hdr payload && fld hdr 52 12 = x.want && x.sends x.want
/-- A flit arrives on one direction of a link: accepted in sequence only, else discarded. A replay of the flit that the receiver waits for
and that arrives damaged is counted. -/
def Link.receive (x : Link) (hdr : Word) (payload : BitVec 512) : Link :=
  let seq := x.seqOf hdr payload
  if !x.sends seq then x
  else if x.takes hdr payload then { x.send seq with want := (x.want + 1) % 4096, replays := 0 }
  else if seq = x.want && seq ≠ x.sent then { x.send seq with replays := x.replays + 1 }
  else x.send seq
/-- What an accepted flit says of the other direction: the flits up to its ACK are acknowledged where they have been sent, and a replay
request has the sender go back behind them. -/
def Link.onAck (x : Link) (hdr : Word) : Link :=
  let a := (fld hdr 40 12 + 1) % 4096
  if x.held < flitsTo x.acked a then x
  else
    let y := { x with acked := a, next := if flitsTo x.acked x.next < flitsTo x.acked a then a else x.next }
    if fld hdr 36 4 = 5 then { y with next := a } else y
/-- Of a towpath link, the flits that this module sends are no steps: those that the peer acknowledges have been sent, at most 1024
beyond the oldest one held (log entry 82). -/
def Link.seenBy (x : Link) (hdr : Word) : Link :=
  let a := (fld hdr 40 12 + 1) % 4096
  if x.held < flitsTo x.acked a && flitsTo x.acked a ≤ 1024 then { x with sent := a, next := a } else x
/-- WEATOR_LINK_DOWN: traffic over the link stops. -/
def State.weatorDown (s : State) (l : Nat) : State :=
  if !bitAt (s.creg pkgStat) (16 + l) then s
  else
    let s := s.loseAll fun d pa => (routeOf d (s.routeEnd pa)).contains l
    (s.clrCreg pkgStat (oneBit (16 + l))).unitFails (32 + l)
def execWeatorLinkDown (l : WeatorN) (s : State) : Out := .next (s.weatorDown l.val)
/-- A flit on direction `k` of a link whose other direction is `o`. -/
def flitOn (m : SMap Link) (k o : Nat) (hdr : Word) (payload : BitVec 512) (ack : Link → Link) : SMap Link :=
  let x := mget Link.zero m k
  let m' := mset .zero m k (x.receive hdr payload)
  if x.takes hdr payload then mset .zero m' o (ack (mget Link.zero m o)) else m'
/-- WEATOR_FLIT: direction `dir` of a link that is up; after 64 replays the link is down. -/
def execWeatorFlit (l : WeatorN) (dir : Bool) (hdr : Word) (payload : BitVec 512) (s : State) : Out :=
  let k := 2 * l.val + if dir then 1 else 0
  let o := 2 * l.val + if dir then 0 else 1
  if !bitAt (s.creg pkgStat) (16 + l.val) then .next s
  else
    let m := flitOn s.pkg.weator k o hdr payload fun y => y.onAck hdr
    let s := s.mapPkg fun p => { p with weator := m }
    .next (if 64 ≤ (mget Link.zero m k).replays then s.weatorDown l.val else s)
/-- TOWPATH_LINK_DOWN: of a link that is up, or that trains and does not in its time. -/
def State.towpathDown (s : State) (l : Nat) : State :=
  let up := bitAt (s.creg pkgStat) (8 + l)
  let trains := s.pkg.booted && bitAt (s.creg pkgStat) 63 && !bitAt (s.creg pkgFail) (16 + l)
  if !up && !trains then s
  else
    let s := s.loseAll fun _ pa => regionOf pa == .peer && s.towLink pa = l
    (s.clrCreg pkgStat (oneBit (8 + l))).unitFails (16 + l)
def execTowpathLinkDown (l : DieN) (s : State) : Out := .next (s.towpathDown l.toNat)
/-- TOWPATH_FLIT: a flit from the peer, on the first direction of the link; what this module accepts it acknowledges. -/
def execTowpathFlit (l : DieN) (hdr : Word) (payload : BitVec 512) (s : State) : Out :=
  let k := 2 * l.toNat
  if !bitAt (s.creg pkgStat) (8 + l.toNat) then .next s
  else
    let m := flitOn s.pkg.towpath k (k + 1) hdr payload fun y => (y.seenBy hdr).onAck hdr
    let x := mget Link.zero m k
    let s := s.mapPkg fun p => { p with towpath := mset .zero m k { x with acked := x.want } }
    .next (if 64 ≤ x.replays then s.towpathDown l.toNat else s)

/-! ### Bring-up (R433 to R436) -/

/-- The module in reset: what is fused, host and peer memory, and what comes from outside stay. -/
def State.again (s : State) : State :=
  { State.reset with
    mem := s.mem.filter fun c => ctlBase ≤ c.1
    cores := s.cores.foldl (fun m kv => mset .zero m kv.1 { Core.zero with capr := kv.2.capr, stuck := kv.2.stuck }) []
    agenda := s.agenda
    foc := s.foc
    freeCtr := s.freeCtr }
/-- POWER_ON_RESET: a firmware that is not verified holds the module in reset. -/
def execPowerOnReset (ok : Bool) (s : State) : Out := .next (s.again.mapPkg fun p => { p with booted := ok })
/-- PCI_EXPRESS_LINK_TRAINED. -/
def execPciExpressLinkTrained (s : State) : Out :=
  .next (if s.pkg.booted then s.mapPkg fun p => { p with pcie := true } else s)
/-- A unit trains: not before the firmware runs, and not once it has failed. -/
def State.trains (s : State) (stat fail : Nat) (f : State → State) : State :=
  if s.pkg.booted && !bitAt (s.creg pkgFail) fail then (f s).orCreg pkgStat (oneBit stat) else s
/-- STACK_TRAINED: tag 0 and history 0 in every granule. -/
def execStackTrained (i : SillN) (s : State) : Out :=
  let lo := i.toNat * 0x80000000
  .next (if bitAt (s.creg pkgStat) (32 + i.toNat) then s
    else s.trains (32 + i.toNat) i.toNat fun s => { s with gran := s.gran.filter fun g => !(lo ≤ g.1 && g.1 < lo + 0x80000000) })
/-- WEATOR_LINK_TRAINED. -/
def execWeatorLinkTrained (l : WeatorN) (s : State) : Out := .next (s.trains (16 + l.val) (32 + l.val) id)
/-- TOWPATH_LINK_TRAINED: after the move to full service. -/
def execTowpathLinkTrained (l : DieN) (s : State) : Out :=
  .next (if bitAt (s.creg pkgStat) 63 then s.trains (8 + l.toNat) (16 + l.toNat) id else s)
/-- Bits of a unit in PKGSTAT and PKGFAIL. -/
def unitBits : TrainUnit → Nat × Nat
  | .stack i => (32 + i.toNat, i.toNat)
  | .weator l => (16 + l.val, 32 + l.val)
  | .towpath l => (8 + l.toNat, 16 + l.toNat)
/-- Towpath links train after the move to full service, the other units before it (R433). -/
def State.trainingOf (s : State) : TrainUnit → Bool
  | .towpath _ => bitAt (s.creg pkgStat) 63
  | _ => true
/-- TRAINING_TIMEOUT: a unit that has not trained in its time has failed. -/
def execTrainingTimeout (u : TrainUnit) (s : State) : Out :=
  let b := unitBits u
  .next (if s.pkg.booted && s.trainingOf u && !bitAt (s.creg pkgStat) b.1 && !bitAt (s.creg pkgFail) b.2 then s.unitFails b.2 else s)
/-- DIE_READY: the die in focus is admitted to reduced service. -/
def execDieReady (s : State) : Out :=
  let d := dieOf s.foc.core
  .next (if s.pkg.booted && (s.die d).service = 0 then
      (s.mapDie d fun k => { k with service := 1 }).orCreg pkgStat (oneBit d)
    else s)
/-- Every stack and every Weator link is trained or failed. -/
def State.settled (s : State) : Bool :=
  let st := s.creg pkgStat
  let f := s.creg pkgFail
  (List.range 16).all (fun i => bitAt st (32 + i) || bitAt f i) && (List.range 10).all fun l => bitAt st (16 + l) || bitAt f (32 + l)
/-- FULL_SERVICE_TRANSITION of the die in focus; FULL with the last die, DEGR with it where a unit has failed. -/
def execFullServiceTransition (s : State) : Out :=
  let d := dieOf s.foc.core
  if (s.die d).service = 1 && s.settled then
    let s := s.mapDie d fun k => { k with service := 2 }
    if (List.range 8).all fun d => (s.die d).service = 2 then
      .next (s.orCreg pkgStat (oneBit 63 ||| if s.creg pkgFail = 0 then 0 else oneBit 62))
    else .next s
  else .next s

/-! ### Power and cooling (R437, R438) -/

/-- POWER_SAMPLE. A die that comes to 105 degrees is a thermal event, reported over I3C (R438, R439). -/
def execPowerSample (watts : BitVec 16) (tmax : BitVec 8) (s : State) : Out :=
  let lim := fld (s.creg (dieReg 0 0x700010)) 0 16
  let w := watts.toNat
  let thr := if lim < w || 105 ≤ tmax.toNat then 1 else if 100 * w ≤ 95 * lim then 0 else fld (s.creg pwrStat) 16 1
  let new := putFld (putFld (putFld 0 24 8 tmax.toNat) 16 1 thr) 0 16 w
  let hot := 105 ≤ tmax.toNat && fld (s.creg pwrStat) 24 8 < 105
  let s := s.setCreg pwrStat new
  .next (if hot then s.mapPkg fun p => { p with i3c := p.i3c ++ [new] } else s)
/-- THERMAL_TRIP: at 115 degrees the module is reset, and the reset reported over I3C. -/
def execThermalTrip (deg : BitVec 8) (s : State) : Out :=
  .next (if 115 ≤ deg.toNat then s.again.mapPkg fun p => { p with i3c := [deg.setWidth 64] } else s)

/-! ### Measurements (R426, R439) -/

/-- DEBUGSTATE. -/
def State.debugState (s : State) : List Byte :=
  (List.range 1024).map (fun i => (List.range 8).foldl (fun (b : Byte) j =>
    let n := 2 * i + j / 4
    let x := s.ctx (coreNo n) (ctxNo (j % 4))
    if x.resident && x.dbg then b ||| ((1 : Byte) <<< j) else b) 0)
    ++ leBytes 8 (putFld (putFld 0 32 32 s.pkg.dbgCount) 0 1 (if s.pkg.everDbg then 1 else 0)).toNat
/-- The value of a measurement. -/
def State.measure (s : State) (idx : Nat) : Option (List Byte) :=
  let dig (k : Nat) : List Byte := leBytes 48 (Config.digest k).toNat
  match idx with
  | 1 => some (dig 1)
  | 2 => some (dig 2)
  | 3 => some ((List.range 8).flatMap fun d =>
      if (s.die d).accepted then leBytes 48 (Config.sha384 (s.die d).image).toNat else [])
  | 16 => some s.debugState
  | _ => none
/-- SPDM_GET_MEASUREMENTS: answered once the host link is up, signed with the device key. -/
def execSpdmGetMeasurements (idx : BitVec 8) (s : State) : Out :=
  match s.pkg.pcie, s.measure idx.toNat with
  | true, some bs => .next (s.mapPkg fun p => { p with spdm := p.spdm ++ [(bs, Config.sign bs)] })
  | _, _ => .next s

end Sys2Proof.Machine
end

