-- ==== Sys2Proof/Machine/Dispatch.lean ====
section
/-! DEFINITION. The dispatcher: one arm per constructor of `Instr`. -/

namespace Sys2Proof.Machine

def exec (i : Instr) (s : State) : Host.Outcome State Fault Refusal :=
  match i with
  | .add d a b => Sys2Proof.Machine.execAdd d a b s
  | .sub d a b => Sys2Proof.Machine.execSub d a b s
  | .mul d a b => Sys2Proof.Machine.execMul d a b s
  | .mulh d a b => Sys2Proof.Machine.execMulh d a b s
  | .mulhu d a b => Sys2Proof.Machine.execMulhu d a b s
  | .div d a b => Sys2Proof.Machine.execDiv d a b s
  | .divu d a b => Sys2Proof.Machine.execDivu d a b s
  | .rem d a b => Sys2Proof.Machine.execRem d a b s
  | .remu d a b => Sys2Proof.Machine.execRemu d a b s
  | .and d a b => Sys2Proof.Machine.execAnd d a b s
  | .or d a b => Sys2Proof.Machine.execOr d a b s
  | .xor d a b => Sys2Proof.Machine.execXor d a b s
  | .andn d a b => Sys2Proof.Machine.execAndn d a b s
  | .shl d a b => Sys2Proof.Machine.execShl d a b s
  | .shr d a b => Sys2Proof.Machine.execShr d a b s
  | .sar d a b => Sys2Proof.Machine.execSar d a b s
  | .min d a b => Sys2Proof.Machine.execMin d a b s
  | .max d a b => Sys2Proof.Machine.execMax d a b s
  | .minu d a b => Sys2Proof.Machine.execMinu d a b s
  | .maxu d a b => Sys2Proof.Machine.execMaxu d a b s
  | .clz d a => Sys2Proof.Machine.execClz d a s
  | .popc d a => Sys2Proof.Machine.execPopc d a s
  | .ext d a b w sgn => Sys2Proof.Machine.execExt d a b w sgn s
  | .sel d a b p neg => Sys2Proof.Machine.execSel d a b p neg s
  | .adds d a b uns => Sys2Proof.Machine.execAdds d a b uns s
  | .setkey d a b => Sys2Proof.Machine.execSetkey d a b s
  | .addi d a imm => Sys2Proof.Machine.execAddi d a imm s
  | .andi d a imm => Sys2Proof.Machine.execAndi d a imm s
  | .ori d a imm => Sys2Proof.Machine.execOri d a imm s
  | .xori d a imm => Sys2Proof.Machine.execXori d a imm s
  | .shli d a sh => Sys2Proof.Machine.execShli d a sh s
  | .shri d a sh => Sys2Proof.Machine.execShri d a sh s
  | .sari d a sh => Sys2Proof.Machine.execSari d a sh s
  | .movi d imm => Sys2Proof.Machine.execMovi d imm s
  | .lih d a imm => Sys2Proof.Machine.execLih d a imm s
  | .cmp p cc a b => Sys2Proof.Machine.execCmp p cc a b s
  | .cmpi p cc a imm => Sys2Proof.Machine.execCmpi p cc a imm s
  | .pand p a na b nb => Sys2Proof.Machine.execPand p a na b nb s
  | .por p a na b nb => Sys2Proof.Machine.execPor p a na b nb s
  | .pxor p a na b nb => Sys2Proof.Machine.execPxor p a na b nb s
  | .pandn p a na b nb => Sys2Proof.Machine.execPandn p a na b nb s
  | .csrr d num => Sys2Proof.Machine.execCsrr d num s
  | .csrw num a => Sys2Proof.Machine.execCsrw num a s
  | .csrs num a => Sys2Proof.Machine.execCsrs num a s
  | .csrc num a => Sys2Proof.Machine.execCsrc num a s
  | .lcw n a => Sys2Proof.Machine.execLcw n a s
  | .lcr d n => Sys2Proof.Machine.execLcr d n s
  | .br p neg off => Sys2Proof.Machine.execBr p neg off s
  | .call p neg off => Sys2Proof.Machine.execCall p neg off s
  | .jr a => Sys2Proof.Machine.execJr a s
  | .callr a => Sys2Proof.Machine.execCallr a s
  | .loopn v n => Sys2Proof.Machine.execLoopn v n s
  | .ifence a n => Sys2Proof.Machine.execIfence a n s
  | .iswapStage a n => Sys2Proof.Machine.execIswapStage a n s
  | .trap n => Sys2Proof.Machine.execTrap n s
  | .suspend c a v => Sys2Proof.Machine.execSuspend c a v s
  | .vadd o => Sys2Proof.Machine.execVadd o s
  | .vsub o => Sys2Proof.Machine.execVsub o s
  | .vmul o => Sys2Proof.Machine.execVmul o s
  | .vfma o => Sys2Proof.Machine.execVfma o s
  | .vfms o => Sys2Proof.Machine.execVfms o s
  | .vmin o => Sys2Proof.Machine.execVmin o s
  | .vmax o => Sys2Proof.Machine.execVmax o s
  | .vabs o => Sys2Proof.Machine.execVabs o s
  | .vneg o => Sys2Proof.Machine.execVneg o s
  | .vadds o => Sys2Proof.Machine.execVadds o s
  | .vsubs o => Sys2Proof.Machine.execVsubs o s
  | .vmov o => Sys2Proof.Machine.execVmov o s
  | .vmulh o => Sys2Proof.Machine.execVmulh o s
  | .vand o => Sys2Proof.Machine.execVand o s
  | .vor o => Sys2Proof.Machine.execVor o s
  | .vxor o => Sys2Proof.Machine.execVxor o s
  | .vandn o => Sys2Proof.Machine.execVandn o s
  | .vshl o => Sys2Proof.Machine.execVshl o s
  | .vshr o => Sys2Proof.Machine.execVshr o s
  | .vsar o => Sys2Proof.Machine.execVsar o s
  | .vcmp o => Sys2Proof.Machine.execVcmp o s
  | .vsel o => Sys2Proof.Machine.execVsel o s
  | .mand o => Sys2Proof.Machine.execMand o s
  | .mor o => Sys2Proof.Machine.execMor o s
  | .mxor o => Sys2Proof.Machine.execMxor o s
  | .mandn o => Sys2Proof.Machine.execMandn o s
  | .mpop o => Sys2Proof.Machine.execMpop o s
  | .vcvt o => Sys2Proof.Machine.execVcvt o s
  | .vqnt o => Sys2Proof.Machine.execVqnt o s
  | .vdqnt o => Sys2Proof.Machine.execVdqnt o s
  | .vredsum o => Sys2Proof.Machine.execVredsum o s
  | .vredmax o => Sys2Proof.Machine.execVredmax o s
  | .vredmin o => Sys2Proof.Machine.execVredmin o s
  | .vperm o => Sys2Proof.Machine.execVperm o s
  | .vbcast o => Sys2Proof.Machine.execVbcast o s
  | .vbcastScalar o => Sys2Proof.Machine.execVbcastScalar o s
  | .vlane o => Sys2Proof.Machine.execVlane o s
  | .vmovs o => Sys2Proof.Machine.execVmovs o s
  | .vmovl o => Sys2Proof.Machine.execVmovl o s
  | .vslide o => Sys2Proof.Machine.execVslide o s
  | .vzip o => Sys2Proof.Machine.execVzip o s
  | .vunzip o => Sys2Proof.Machine.execVunzip o s
  | .vrcp o => Sys2Proof.Machine.execVrcp o s
  | .vrsqrt o => Sys2Proof.Machine.execVrsqrt o s
  | .vexp2 o => Sys2Proof.Machine.execVexp2 o s
  | .vlog2 o => Sys2Proof.Machine.execVlog2 o s
  | .vtanh o => Sys2Proof.Machine.execVtanh o s
  | .vrng o => Sys2Proof.Machine.execVrng o s
  | .mma o => Sys2Proof.Machine.execMma o s
  | .mmas o => Sys2Proof.Machine.execMmas o s
  | .tadd o => Sys2Proof.Machine.execTadd o s
  | .tscl o => Sys2Proof.Machine.execTscl o s
  | .tcvt o => Sys2Proof.Machine.execTcvt o s
  | .tqnt o => Sys2Proof.Machine.execTqnt o s
  | .tcmpr o => Sys2Proof.Machine.execTcmpr o s
  | .tdcmp o => Sys2Proof.Machine.execTdcmp o s
  | .tmov o => Sys2Proof.Machine.execTmov o s
  | .mkat fmt seed sig => Sys2Proof.Machine.execMkat fmt seed sig s
  | .ld o => Sys2Proof.Machine.execLd o s
  | .st o => Sys2Proof.Machine.execSt o s
  | .vld o => Sys2Proof.Machine.execVld o s
  | .vst o => Sys2Proof.Machine.execVst o s
  | .vlds o => Sys2Proof.Machine.execVlds o s
  | .vsts o => Sys2Proof.Machine.execVsts o s
  | .vgath o => Sys2Proof.Machine.execVgath o s
  | .vscat o => Sys2Proof.Machine.execVscat o s
  | .ldfar o => Sys2Proof.Machine.execLdfar o s
  | .vldfar o => Sys2Proof.Machine.execVldfar o s
  | .qmark o => Sys2Proof.Machine.execQmark o s
  | .fence o => Sys2Proof.Machine.execFence o s
  | .atom o => Sys2Proof.Machine.execAtom o s
  | .arrive o => Sys2Proof.Machine.execArrive o s
  | .waitp o => Sys2Proof.Machine.execWaitp o s
  | .berth o => Sys2Proof.Machine.execBerth o s
  | .ownx o => Sys2Proof.Machine.execOwnx o s
  | .monarm o => Sys2Proof.Machine.execMonarm o s
  | .monwait o => Sys2Proof.Machine.execMonwait o s
  | .pref o => Sys2Proof.Machine.execPref o s
  | .cwb o => Sys2Proof.Machine.execCwb o s
  | .cinv o => Sys2Proof.Machine.execCinv o s
  | .cinvAll o => Sys2Proof.Machine.execCinvAll o s
  | .tagset o => Sys2Proof.Machine.execTagset o s
  | .tagrd o => Sys2Proof.Machine.execTagrd o s
  | .tld o => Sys2Proof.Machine.execTld o s
  | .tst o => Sys2Proof.Machine.execTst o s
  | .tcfg o => Sys2Proof.Machine.execTcfg o s
  | .tsave o => Sys2Proof.Machine.execTsave o s
  | .trest o => Sys2Proof.Machine.execTrest o s
  | .tsend o => Sys2Proof.Machine.execTsend o s
  | .trigger o => Sys2Proof.Machine.execTrigger o s
  | .spawn o => Sys2Proof.Machine.execSpawn o s
  | .launch o => Sys2Proof.Machine.execLaunch o s
  | .gssnext o => Sys2Proof.Machine.execGssnext o s
  | .sld o => Sys2Proof.Machine.execSld o s
  | .trw o => Sys2Proof.Machine.execTrw o s
  | .trr o => Sys2Proof.Machine.execTrr o s
  | .tcw o => Sys2Proof.Machine.execTcw o s
  | .tcr o => Sys2Proof.Machine.execTcr o s
  | .tzero o => Sys2Proof.Machine.execTzero o s
  | .brd o => Sys2Proof.Machine.execBrd o s
  | .bwr o => Sys2Proof.Machine.execBwr o s
  | .bchk o => Sys2Proof.Machine.execBchk o s
  | .bclr o => Sys2Proof.Machine.execBclr o s
  | .sgrd o => Sys2Proof.Machine.execSgrd o s
  | .sgclr o => Sys2Proof.Machine.execSgclr o s
  | .kwr o => Sys2Proof.Machine.execKwr o s
  | .krd o => Sys2Proof.Machine.execKrd o s
  | .registerDoubleError n c site => Sys2Proof.Machine.execRegisterDoubleError n c site s
  | .arbiterServe cl agree => Sys2Proof.Machine.execArbiterServe cl agree s
  | .verifctlWrite n v => Sys2Proof.Machine.execVerifctlWrite n v s
  | .resultArrival n c seq => Sys2Proof.Machine.execResultArrival n c seq s
  | .parkWake cl line => Sys2Proof.Machine.execParkWake cl line s
  | .walkinvPage d asid vpage => Sys2Proof.Machine.execWalkinvPage d asid vpage s
  | .walkinvAsid d asid => Sys2Proof.Machine.execWalkinvAsid d asid s
  | .walkinvAll d => Sys2Proof.Machine.execWalkinvAll d s
  | .faulttailWrite d v => Sys2Proof.Machine.execFaulttailWrite d v s
  | .violtailWrite d v => Sys2Proof.Machine.execVioltailWrite d v s
  | .leaseCheckWait d base => Sys2Proof.Machine.execLeaseCheckWait d base s
  | .leaseCheckRevoke d base => Sys2Proof.Machine.execLeaseCheckRevoke d base s
  | .storePerform n c k bad => Sys2Proof.Machine.execStorePerform n c k bad s
  | .loadPerform n c k => Sys2Proof.Machine.execLoadPerform n c k s
  | .atomicPerform n c k status => Sys2Proof.Machine.execAtomicPerform n c k status s
  | .replayRewalk n c k => Sys2Proof.Machine.execReplayRewalk n c k s
  | .replayRewalkTimer n c k => Sys2Proof.Machine.execReplayRewalkTimer n c k s
  | .bankmodeSwitch n c b v => Sys2Proof.Machine.execBankmodeSwitch n c b v s
  | .bankSwitchComplete n b => Sys2Proof.Machine.execBankSwitchComplete n b s
  | .llcwinResize s' v => Sys2Proof.Machine.execLlcwinResize s' v s
  | .llcwinResizeDone s' => Sys2Proof.Machine.execLlcwinResizeDone s' s
  | .fifoPushAccept n b => Sys2Proof.Machine.execFifoPushAccept n b s
  | .copy e => Sys2Proof.Machine.execCopy e s
  | .copysc e bad => Sys2Proof.Machine.execCopysc e bad s
  | .migrate e => Sys2Proof.Machine.execMigrate e s
  | .mcast e => Sys2Proof.Machine.execMcast e s
  | .cetailWrite e w v => Sys2Proof.Machine.execCetailWrite e w v s
  | .cestatResume e w => Sys2Proof.Machine.execCestatResume e w s
  | .cestatSkip e w => Sys2Proof.Machine.execCestatSkip e w s
  | .ownershipWord0Write d i' v => Sys2Proof.Machine.execOwnershipWord0Write d i' v s
  | .ownershipWord1Write d i' v => Sys2Proof.Machine.execOwnershipWord1Write d i' v s
  | .barrierObjectWrite d i' v => Sys2Proof.Machine.execBarrierObjectWrite d i' v s
  | .phaseWatchRetry d r => Sys2Proof.Machine.execPhaseWatchRetry d r s
  | .refreshRow s' line symbols => Sys2Proof.Machine.execRefreshRow s' line symbols s
  | .eccCountClear s' v => Sys2Proof.Machine.execEccCountClear s' v s
  | .dispatch n c pa => Sys2Proof.Machine.execDispatch n c pa s
  | .preEmpt n c resno => Sys2Proof.Machine.execPreEmpt n c resno s
  | .force n c resno => Sys2Proof.Machine.execForce n c resno s
  | .kill n c resno => Sys2Proof.Machine.execKill n c resno s
  | .resume n c resno => Sys2Proof.Machine.execResume n c resno s
  | .slots n arg => Sys2Proof.Machine.execSlots n arg s
  | .banks n arg => Sys2Proof.Machine.execBanks n arg s
  | .disteventRead d w => Sys2Proof.Machine.execDisteventRead d w s
  | .distmboxrdRead d w => Sys2Proof.Machine.execDistmboxrdRead d w s
  | .mboxPlace d src r arg => Sys2Proof.Machine.execMboxPlace d src r arg s
  | .mboxPlaced d src r arg => Sys2Proof.Machine.execMboxPlaced d src r arg s
  | .mboxNoroom d src r arg => Sys2Proof.Machine.execMboxNoroom d src r arg s
  | .mboxPreempt d src r arg => Sys2Proof.Machine.execMboxPreempt d src r arg s
  | .mboxForce d src r arg => Sys2Proof.Machine.execMboxForce d src r arg s
  | .mboxKill d src r arg => Sys2Proof.Machine.execMboxKill d src r arg s
  | .mboxEnded d src r arg => Sys2Proof.Machine.execMboxEnded d src r arg s
  | .distctlQuiesce d v => Sys2Proof.Machine.execDistctlQuiesce d v s
  | .distctlLoad d w v => Sys2Proof.Machine.execDistctlLoad d w v s
  | .queueWake q => Sys2Proof.Machine.execQueueWake q s
  | .rcondWake d r => Sys2Proof.Machine.execRcondWake d r s
  | .dlogtailWrite d v => Sys2Proof.Machine.execDlogtailWrite d v s
  | .dbgGo n c step => Sys2Proof.Machine.execDbgGo n c step s
  | .traceSessionOpen n c v => Sys2Proof.Machine.execTraceSessionOpen n c v s
  | .traceSessionClose n c v => Sys2Proof.Machine.execTraceSessionClose n c v s
  | .spdmGetMeasurements idx => Sys2Proof.Machine.execSpdmGetMeasurements idx s
  | .hostWrite rid bar2 off w => Sys2Proof.Machine.execHostWrite rid bar2 off w s
  | .hostRead rid bar2 off len => Sys2Proof.Machine.execHostRead rid bar2 off len s
  | .hostAtomicop rid off op wide v cmp => Sys2Proof.Machine.execHostAtomicop rid off op wide v cmp s
  | .ideKeyRollover stream slot => Sys2Proof.Machine.execIdeKeyRollover stream slot s
  | .weatorFlit l dir hdr payload => Sys2Proof.Machine.execWeatorFlit l dir hdr payload s
  | .weatorLinkDown l => Sys2Proof.Machine.execWeatorLinkDown l s
  | .towpathFlit l hdr payload => Sys2Proof.Machine.execTowpathFlit l hdr payload s
  | .towpathLinkDown l => Sys2Proof.Machine.execTowpathLinkDown l s
  | .powerOnReset ok => Sys2Proof.Machine.execPowerOnReset ok s
  | .stackTrained s' => Sys2Proof.Machine.execStackTrained s' s
  | .weatorLinkTrained l => Sys2Proof.Machine.execWeatorLinkTrained l s
  | .towpathLinkTrained l => Sys2Proof.Machine.execTowpathLinkTrained l s
  | .trainingTimeout u => Sys2Proof.Machine.execTrainingTimeout u s
  | .modidWrite v => Sys2Proof.Machine.execModidWrite v s
  | .pwrcapWrite v => Sys2Proof.Machine.execPwrcapWrite v s
  | .powerSample watts tmax => Sys2Proof.Machine.execPowerSample watts tmax s
  | .thermalTrip deg => Sys2Proof.Machine.execThermalTrip deg s
  | .registerWrite w pa v => Sys2Proof.Machine.execRegisterWrite w pa v s
  | .hostLinkFlit f => Sys2Proof.Machine.execHostLinkFlit f s
  | .ret => Sys2Proof.Machine.execRet s
  | .ifenceAll => Sys2Proof.Machine.execIfenceAll s
  | .iswap => Sys2Proof.Machine.execIswap s
  | .eret => Sys2Proof.Machine.execEret s
  | .suspendDorm => Sys2Proof.Machine.execSuspendDorm s
  | .yield => Sys2Proof.Machine.execYield s
  | .retire => Sys2Proof.Machine.execRetire s
  | .bundleIssue => Sys2Proof.Machine.execBundleIssue s
  | .commitOverflow => Sys2Proof.Machine.execCommitOverflow s
  | .cleancntWrap => Sys2Proof.Machine.execCleancntWrap s
  | .mkatOutcome => Sys2Proof.Machine.execMkatOutcome s
  | .instructionFetchFill => Sys2Proof.Machine.execInstructionFetchFill s
  | .pageWalk => Sys2Proof.Machine.execPageWalk s
  | .invalidationComplete => Sys2Proof.Machine.execInvalidationComplete s
  | .leasetoExpiry => Sys2Proof.Machine.execLeasetoExpiry s
  | .berthArrival => Sys2Proof.Machine.execBerthArrival s
  | .berthStart => Sys2Proof.Machine.execBerthStart s
  | .barrierArrivalApply => Sys2Proof.Machine.execBarrierArrivalApply s
  | .waitpRetry => Sys2Proof.Machine.execWaitpRetry s
  | .waitpTimeout => Sys2Proof.Machine.execWaitpTimeout s
  | .monwaitTimeout => Sys2Proof.Machine.execMonwaitTimeout s
  | .residencyEnd => Sys2Proof.Machine.execResidencyEnd s
  | .distQuiesced => Sys2Proof.Machine.execDistQuiesced s
  | .distctlRun => Sys2Proof.Machine.execDistctlRun s
  | .pollSweep => Sys2Proof.Machine.execPollSweep s
  | .recordOffer => Sys2Proof.Machine.execRecordOffer s
  | .launchRelease => Sys2Proof.Machine.execLaunchRelease s
  | .watchdogPreempt => Sys2Proof.Machine.execWatchdogPreempt s
  | .watchdogForce => Sys2Proof.Machine.execWatchdogForce s
  | .watchdogKill => Sys2Proof.Machine.execWatchdogKill s
  | .dbgHalt => Sys2Proof.Machine.execDbgHalt s
  | .dbgDump => Sys2Proof.Machine.execDbgDump s
  | .dbgDumpDone => Sys2Proof.Machine.execDbgDumpDone s
  | .dbgLoad => Sys2Proof.Machine.execDbgLoad s
  | .sampleTick => Sys2Proof.Machine.execSampleTick s
  | .dieReady => Sys2Proof.Machine.execDieReady s
  | .fullServiceTransition => Sys2Proof.Machine.execFullServiceTransition s
  | .pciExpressLinkTrained => Sys2Proof.Machine.execPciExpressLinkTrained s

end Sys2Proof.Machine
end

