-- ==== Sys2Proof/Machine/Sched.lean ====
section
/-! DEFINITION. Which step comes next (log entry 1): what the outside world has asked for, else the work that the core in focus has
waiting, else a core cycle. And how a program is loaded for a first instruction. -/

namespace Sys2Proof.Machine

/-! ### The order of steps -/

/-- A step in a focus. -/
abbrev Act := Focus × Instr

/-- Steps of a context that its queues or its state ask for. -/
def State.ctxActs (s : State) (n : CoreN) (c : CtxN) : List Act :=
  let x := s.ctx n c
  let f : Focus := ⟨n, c, .A, false⟩
  (if x.fetchWait.isSome then [(f, Instr.instructionFetchFill)] else [])
    ++ (if x.toWalk.isSome then [(f, Instr.pageWalk)] else [])
    ++ (List.range x.lq.length).map (fun k => (f, Instr.loadPerform n c k))
    ++ (x.sq.zipIdx).map (fun p => (f, match p.1.kind with
        | .atom _ _ _ _ _ _ => Instr.atomicPerform n c p.2 .ok
        | _ => Instr.storePerform n c p.2 0))
    ++ (List.range x.rq.length).map (fun k => (f, Instr.replayRewalk n c k))
    ++ (if (s.core n).cyc.toNat % 65536 = 0 then (List.range x.rq.length).map (fun k => (f, Instr.replayRewalkTimer n c k)) else [])
    ++ (if s.dbgBusy n c then [(f, Instr.dbgDumpDone)] else [])
    ++ (if x.waitpEntry.isSome then [(f, Instr.waitpTimeout)] else [])
    ++ (if x.monwait.isSome then [(f, Instr.monwaitTimeout)] else [])
    ++ (if s.dies.any fun kv => !kv.2.revokes.isEmpty then [(f, Instr.leasetoExpiry)] else [])
    ++ (match x.run with | .ending _ => [(f, Instr.residencyEnd)] | _ => [])
    ++ (if x.wdCnt ≠ 0 && (s.placedOf n c).isSome then [(f, Instr.watchdogPreempt), (f, .watchdogForce), (f, .watchdogKill)] else [])
/-- Steps of the units of a core. -/
def State.coreActs (s : State) (n : CoreN) : List Act :=
  let k := s.core n
  let f : Focus := ⟨n, 0, .A, false⟩
  (if k.stage.isEmpty then [] else [(f, Instr.instructionFetchFill)])
    ++ ((List.range 4).map (fun i => 4 * clusterOf n + i)).flatMap (fun e =>
      if s.ceRuns e then (let g : EngineN := BitVec.ofNat 7 e; [Instr.copy g, Instr.copysc g 0, Instr.migrate g, Instr.mcast g]).map fun i => (f, i) else [])
    ++ (if k.kats.isEmpty then [] else [(f, Instr.mkatOutcome)])
    ++ (if (s.creg (verReg n 0x18)).toNat < 2 ^ 20 then [] else [(f, Instr.cleancntWrap)])
    ++ (if k.inbox.isEmpty then [] else [(f, Instr.berthArrival)])
    ++ (if k.berthq.isEmpty then [] else [(f, Instr.berthStart)])
    ++ ((k.bankmode.filter fun b => bitAt b.2 7).map fun b => (f, Instr.bankSwitchComplete n (BitVec.ofNat 4 b.1)))
    ++ ((k.fifo.filter fun b => !b.2.waiting.isEmpty).map fun b => (f, Instr.fifoPushAccept n (BitVec.ofNat 4 b.1)))
    ++ (if (s.cluster (clusterOf n)).arb.isEmpty then [] else [(f, Instr.arbiterServe (BitVec.ofNat 5 (clusterOf n)) true)])
/-- What a mailbox word that a hart of a die has read asks for (R207). -/
def mailAct (d : DieN) (v : Word) : List Instr :=
  let src : DieN := v.extractLsb' 57 3
  let r : PAddr := v.extractLsb' 0 52
  let arg : BitVec 6 := v.extractLsb' 0 6
  let rec' : PAddr := r >>> 6 <<< 6
  match fld v 60 4 with
  | 1 => [Instr.mboxPlace d src rec' arg]
  | 2 => [Instr.mboxPlaced d src rec' arg]
  | 3 => [Instr.mboxNoroom d src rec' arg]
  | 4 => [Instr.mboxPreempt d src rec' arg]
  | 5 => [Instr.mboxForce d src rec' arg]
  | 6 => [Instr.mboxKill d src rec' arg]
  | 7 => [Instr.mboxEnded d src rec' arg]
  | _ => []
/-- The host's requests that wait (R120). -/
def State.hostActs (s : State) : List Act := if s.pkg.hostq.isEmpty then [] else [(⟨s.foc.core, 0, .A, false⟩, Instr.hostWrite 0 false 0 .waiting)]
/-- Steps of a die's walkers and of its distributor, while its harts run. -/
def State.dieActs (s : State) (n : CoreN) : List Act :=
  let d := dieOf n
  let k := s.die d
  let dn : DieN := BitVec.ofNat 3 d
  let is : List Instr := (if k.invs.isEmpty then [] else [Instr.invalidationComplete])
    ++ (if !s.hartsRun d then [] else
      (if k.evt.isEmpty then [] else [Instr.disteventRead dn (.hart dn)])
      ++ (match k.mread with | v :: _ => mailAct dn v | [] => [])
      ++ (if k.mbox.isEmpty then [] else [Instr.distmboxrdRead dn (.hart dn)])
      ++ ((k.rearm (s.watches d)).mons.map fun w => (match w with
        | .queue q | .entry q => Instr.queueWake (BitVec.ofNat 12 q)
        | .rec' r => Instr.rcondWake dn (BitVec.ofNat 52 r)))
      ++ (if s.polled d ≠ 0 && (s.core n).cyc.toNat % 65536 = 0 then [Instr.pollSweep] else [])
      ++ (if bitAt (s.creg (dieReg d 0x300000)) 1 then [Instr.distQuiesced] else [])
      ++ (k.waitl.map fun h => Instr.phaseWatchRetry dn (BitVec.ofNat 52 h.rpa))
      ++ (if k.ready.isEmpty then [] else [Instr.recordOffer])
      ++ (if k.insts.isEmpty then [] else [Instr.launchRelease]))
  is.map fun i => (⟨n, 0, .A, false⟩, i)
/-- Whether a step changes the state it is taken in. -/
def State.changes (s : State) (a : Act) : Bool :=
  match exec a.2 { s with foc := a.1 } with
  | .next t => t != { s with foc := a.1 }
  | _ => true
/-- The work of the core in focus. -/
def State.work (s : State) : List Act := allCtx.flatMap (s.ctxActs s.foc.core) ++ s.coreActs s.foc.core ++ s.dieActs s.foc.core ++ s.hostActs
/-- The next step, and the requests that remain. -/
def State.nextAct (s : State) : Act × List Act :=
  match s.agenda with
  | a :: t => (a, t)
  | [] => ((s.work.find? s.changes).getD (s.foc, .bundleIssue), [])
/-- The state in which the next step is taken. -/
def State.atAct (s : State) : State := { s with agenda := s.nextAct.2, foc := s.nextAct.1.1 }

/-! ### A program of one instruction -/

/-- The slot that an operation's class is issued in. -/
def slotFor : SlotClass → Slot
  | .scalar => .A
  | .vector => .V
  | .matrix => .M
  | .memory => .L
  | .aux => .X
/-- Class of a bare word; a word that decodes to nothing is laid in slot A or L by its length. -/
def wordSlot (nbits w : Nat) : Slot :=
  match decodeTable nbits w with
  | some p => slotFor p.1
  | none => if nbits ≤ 32 then .A else .L
/-- The bundle of one word in mode new: its header, then the word. -/
def bundleOf (nbits w : Nat) : List Byte :=
  let s := wordSlot nbits w
  leBytes 8 (2 * 4 ^ s.idx) ++ leBytes s.bytes w
/-- Bytes as the start of a line. -/
def lineOf (bs : List Byte) : VReg := BitVec.ofNat 512 (leNat bs)
/-- A residency at its start, with all the vector registers. -/
def Ctx.first : Ctx := { Ctx.zero with run := .live, recd := [(6, 16)] }

end Sys2Proof.Machine
end

