-- ==== Sys2Proof/Machine/Step.lean ====
section
/-! DEFINITION. One step of the module, and the placing of an instruction where the next step fetches it. -/

namespace Sys2Proof.Machine

/-- One step: the next one of the module (log entry 1). -/
def step (s : State) : Host.Outcome State Fault Refusal := exec s.nextAct.1.2 s.atAct

/-- Context 0 of core 0 stands at the start of a residency whose first bundle holds the word; its line is in the core's instruction
store, and its issue is the next step asked for (log entry 1). -/
def State.withFetchWord (s : State) (nbits w : Nat) : State :=
  let k := s.core 0
  let s := s.setCore 0 { k with fh := false, istore := [⟨false, 0, 0, lineOf (bundleOf nbits w)⟩], last := 0, lastRan := false }
  let s := ((s.setCtx 0 1 Ctx.zero).setCtx 0 2 Ctx.zero).setCtx 0 3 Ctx.zero
  { s.setCtx 0 0 Ctx.first with agenda := [(⟨0, 0, .A, false⟩, .bundleIssue)], foc := ⟨0, 0, .A, false⟩ }

end Sys2Proof.Machine
end

