-- ==== Sys2Proof/Safety.lean ====
section
/-! DEFINITION. What a safe step is, and the other terms the statements use. -/

namespace Sys2Proof.Machine

/-- The step goes on: it neither faults nor refuses. -/
def Goes (o : Out) : Prop := ∃ t, o = .next t

/-- Memory is in its canonical form: addresses strictly rising, no listed byte 0. -/
abbrev Memory.wf (m : List Host.Cell) : Prop := mwf (0 : Byte) m = true

/-- An operation may execute in the slot in focus: its fields are legal there (R244) and its tiles are configured as it needs
(R358, R359). -/
abbrev Ready (i : Instr) (s : State) : Prop :=
  opLegal s.cx ((s.die (dieOf s.foc.core)).service = 1) i = true ∧ tileFault s.cx.a i = none

/-- Where an operation may execute, its meaning answers the next state `t`. -/
def Gives (i : Instr) (s t : State) : Prop := Ready i s → exec i s = .next t

/-- `t` is `s` but for the context in focus, which is `x` in it. -/
def OnlyCx (s t : State) (x : Ctx) : Prop :=
  t.cx = x ∧ (∀ m e, ¬(m = s.foc.core ∧ e = s.foc.ctx) → t.ctx m e = s.ctx m e) ∧ { t with ctxs := s.ctxs } = s
/-- Where an operation may execute, it answers a state in which nothing but the context in focus differs, and that is `x`. -/
def GivesCx (i : Instr) (s : State) (x : Ctx) : Prop := Ready i s → ∃ t, exec i s = .next t ∧ OnlyCx s t x

/-- The instruction answers a next state of which `P` holds. -/
def Answers (i : Instr) (s : State) (P : State → Prop) : Prop := ∃ t, exec i s = .next t ∧ P t
/-- Every context but one is as it was. -/
def SameBut (s t : State) (n : CoreN) (c : CtxN) : Prop := ∀ m e, ¬(m = n ∧ e = c) → t.ctx m e = s.ctx m e
/-- Memory reads as before outside the bytes [pa, pa + len). -/
def MemOutside (s t : State) (pa len : Nat) : Prop := ∀ a, ¬(pa ≤ a ∧ a < pa + len) → t.rdByte a = s.rdByte a

/-- Every part of the state that is kept as a sparse map is in its canonical form. -/
structure State.Inv (s : State) : Prop where
  mem : Memory.wf s.mem
  gran : mwf 0 s.gran = true
  poison : mwf false s.poison = true
  ecc : mwf 0 s.ecc = true
  l2 : mwf 0 s.l2 = true
  cregs : (s.cregs.map (·.1)).Pairwise (· < ·) ∧ ∀ kv ∈ s.cregs, kv.2 ≠ regReset kv.1
  llcOld : mwf 0 s.llcOld = true
  cores : mwf Core.zero s.cores = true
  ctxs : mwf Ctx.zero s.ctxs = true
  clusters : mwf Cluster.zero s.clusters = true
  engines : mwf Engine.zero s.engines = true
  dies : mwf Die.zero s.dies = true

/-! ### Vector operations -/

/-- Lane i of a destination receives the operation's value (R305, R306): its index is below the count and its mask bit, where lanes are
governed, is set. -/
def laneGets (s : State) (o : VOp) (i : Nat) : Prop :=
  i < s.cnt o.vcnt ∧ (o.mu = true → (s.cx.a.rdM o.mreg.toNat).getLsbD i = true)
/-- `t` is `s` with a result for register VD on its way, due `lat` cycles later: an active lane holds `f` of its index, a lane at or
above the count and an inactive lane keep their value, but for the zero that MZ asks for. -/
def LaneResult (o : VOp) (lat : Nat) (s : State) (f : Nat → Nat) (t : State) : Prop :=
  ∃ r : VReg, t = s.land lat [.v o.vd.toNat r] ∧ ∀ i < laneCount o.ty,
    (laneGets s o i → lane (tyW o.ty) r i = f i % 2 ^ tyW o.ty)
    ∧ (¬laneGets s o i → lane (tyW o.ty) r i = if o.mz = true ∧ i < s.cnt o.vcnt then 0 else lane (tyW o.ty) (s.V o.vd) i)
/-- Where a vector operation may execute, it answers such a state. -/
def GivesLanes (i : Instr) (o : VOp) (lat : Nat) (s : State) (f : Nat → Nat) : Prop :=
  Ready i s → ∃ t, exec i s = .next t ∧ LaneResult o lat s f t
/-- A lane as an integer of its type: signed for .i, unsigned for .z (R247). -/
def laneZ (t : BitVec 4) (x : Nat) : Int := if t.toNat < 4 then (BitVec.ofNat (tyW t) x).toInt else x
/-- The integer that z / d rounds to in a mode of R318: for .rne the nearest, on a tie the even one. -/
def RoundsTo (rm : Rm) (z d q : Int) : Prop :=
  match rm with
  | .rne => 2 * ((q * d - z).natAbs : Int) ≤ d ∧ (2 * ((q * d - z).natAbs : Int) = d → q % 2 = 0)
  | .rz => (q.natAbs : Int) * d ≤ z.natAbs ∧ (z.natAbs : Int) < (q.natAbs + 1) * d ∧ 0 ≤ q * z
  | .ru => z ≤ q * d ∧ (q - 1) * d < z
  | .rd => q * d ≤ z ∧ z < (q + 1) * d
/-- An integer in a lane, modulo 2^w. -/
def zLane (t : BitVec 4) (z : Int) : Nat := (z % 2 ^ tyW t).toNat

end Sys2Proof.Machine
end

