-- ==== Sys2Proof/Certificates/Slice0/Obligations.lean ====
section
/-! DEFINITION. The statements about the model, from the spec's rules. -/

open Sys2Proof Sys2Proof.Machine

/-! ### Scalar operations (chapter 11) -/

/-- R275: sums, products and their high halves, logic, shifts, minima and maxima of two scalars, as 64-bit values, each landing in D
at the latency of R273.
R278: the immediate forms; the immediate is the sign extension of the 38 bits of R243. -/
def Obligations.ScalarArithmeticAndImmediates : Prop :=
  (∀ (s : State) (d a b : Reg),
     let x := s.S a
     let y := s.S b
     Gives (.add d a b) s (s.landS 1 d (BitVec.ofNat 64 ((x.toNat + y.toNat) % 2 ^ 64)))
     ∧ Gives (.sub d a b) s (s.landS 1 d (BitVec.ofInt 64 (x.toInt - y.toInt)))
     ∧ Gives (.mul d a b) s (s.landS 3 d ((x.setWidth 128 * y.setWidth 128).extractLsb' 0 64))
     ∧ Gives (.mulh d a b) s (s.landS 3 d ((x.signExtend 128 * y.signExtend 128).extractLsb' 64 64))
     ∧ Gives (.mulhu d a b) s (s.landS 3 d ((x.setWidth 128 * y.setWidth 128).extractLsb' 64 64))
     ∧ Gives (.and d a b) s (s.landS 1 d (x &&& y))
     ∧ Gives (.or d a b) s (s.landS 1 d (x ||| y))
     ∧ Gives (.xor d a b) s (s.landS 1 d (x ^^^ y))
     ∧ Gives (.andn d a b) s (s.landS 1 d (x &&& ~~~y))
     ∧ Gives (.shl d a b) s (s.landS 1 d (x <<< (y.toNat % 64)))
     ∧ Gives (.shr d a b) s (s.landS 1 d (x >>> (y.toNat % 64)))
     ∧ Gives (.sar d a b) s (s.landS 1 d (x.sshiftRight (y.toNat % 64)))
     ∧ Gives (.min d a b) s (s.landS 1 d (BitVec.ofInt 64 (min x.toInt y.toInt)))
     ∧ Gives (.max d a b) s (s.landS 1 d (BitVec.ofInt 64 (max x.toInt y.toInt)))
     ∧ Gives (.minu d a b) s (s.landS 1 d (BitVec.ofNat 64 (min x.toNat y.toNat)))
     ∧ Gives (.maxu d a b) s (s.landS 1 d (BitVec.ofNat 64 (max x.toNat y.toNat))))
  ∧ (∀ (s : State) (d a : Reg) (imm : BitVec 38) (sh : BitVec 6),
       let x := s.S a
       Gives (.addi d a imm) s (s.landS 1 d (BitVec.ofInt 64 (x.toInt + imm.toInt)))
       ∧ Gives (.andi d a imm) s (s.landS 1 d (x &&& BitVec.ofInt 64 imm.toInt))
       ∧ Gives (.ori d a imm) s (s.landS 1 d (x ||| BitVec.ofInt 64 imm.toInt))
       ∧ Gives (.xori d a imm) s (s.landS 1 d (x ^^^ BitVec.ofInt 64 imm.toInt))
       ∧ Gives (.shli d a sh) s (s.landS 1 d (x <<< sh.toNat))
       ∧ Gives (.shri d a sh) s (s.landS 1 d (x >>> sh.toNat))
       ∧ Gives (.sari d a sh) s (s.landS 1 d (x.sshiftRight sh.toNat))
       ∧ Gives (.movi d imm) s (s.landS 1 d (BitVec.ofInt 64 imm.toInt))
       ∧ Gives (.lih d a imm) s (s.landS 1 d (imm.extractLsb' 0 32 ++ x.extractLsb' 0 32)))

/-- R276: division never traps; its quotients truncate towards zero and its corners have the values of the table. -/
def Obligations.ScalarDivisionResults : Prop :=
  ∀ (s : State) (d a b : Reg),
    let x := s.S a
    let y := s.S b
    Gives (.div d a b) s (s.landS 18 d (if y = 0 then 0xFFFFFFFFFFFFFFFF else BitVec.ofInt 64 (x.toInt.tdiv y.toInt)))
    ∧ Gives (.divu d a b) s (s.landS 18 d (if y = 0 then 0xFFFFFFFFFFFFFFFF else BitVec.ofNat 64 (x.toNat / y.toNat)))
    ∧ Gives (.rem d a b) s (s.landS 18 d (if y = 0 then x else BitVec.ofInt 64 (x.toInt.tmod y.toInt)))
    ∧ Gives (.remu d a b) s (s.landS 18 d (if y = 0 then x else BitVec.ofNat 64 (x.toNat % y.toNat)))
    ∧ (x = BitVec.ofInt 64 (-2 ^ 63) → y = BitVec.ofInt 64 (-1) →
        Gives (.div d a b) s (s.landS 18 d (BitVec.ofInt 64 (-2 ^ 63))) ∧ Gives (.rem d a b) s (s.landS 18 d 0))

/-- R275, R277: the counts of bits, field extraction, selection, saturating addition and key insertion. -/
def Obligations.ScalarBitResults : Prop :=
  ∀ (s : State) (d a b : Reg),
    let x := s.S a
    let y := s.S b
    (∃ n, n ≤ 64 ∧ (∀ i, 64 - n ≤ i → i < 64 → x.getLsbD i = false) ∧ (n < 64 → x.getLsbD (63 - n) = true)
      ∧ Gives (.clz d a) s (s.landS 1 d (BitVec.ofNat 64 n)))
    ∧ Gives (.popc d a) s (s.landS 1 d (BitVec.ofNat 64 ((List.range 64).countP x.getLsbD)))
    ∧ (∀ (w : BitVec 6) (sgn : Bool), ∃ v : Word,
        (∀ i < 64, v.getLsbD i =
          if i < w.toNat + 1 then x.getLsbD (y.toNat % 64 + i) else (sgn && x.getLsbD (y.toNat % 64 + w.toNat)))
        ∧ Gives (.ext d a b w sgn) s (s.landS 1 d v))
    ∧ (∀ (p : PReg) (neg : Bool), Gives (.sel d a b p neg) s (s.landS 1 d (if (s.P p ^^ neg) = true then x else y)))
    ∧ Gives (.adds d a b false) s (s.landS 1 d (BitVec.ofInt 64 (max (-2 ^ 63) (min (2 ^ 63 - 1) (x.toInt + y.toInt)))))
    ∧ Gives (.adds d a b true) s (s.landS 1 d (BitVec.ofNat 64 (min (2 ^ 64 - 1) (x.toNat + y.toNat))))
    ∧ Gives (.setkey d a b) s (s.landS 1 d (x.extractLsb' 52 12 ++ y.extractLsb' 0 4 ++ x.extractLsb' 0 48))

/-- R279, R280: compares write P[PD] with the relation that CC names, predicate logic with the operation on two sources that may be
negated, which its word gives. -/
def Obligations.PredicateResults : Prop :=
  ∀ (s : State) (p : PReg),
    (∀ (cc : BitVec 4) (a b : Reg) (imm : BitVec 36),
      let rel (x y : Word) : Bool := match cc.toNat with
        | 0 => decide (x.toNat = y.toNat)
        | 1 => decide (x.toNat ≠ y.toNat)
        | 2 => decide (x.toInt < y.toInt)
        | 3 => decide (y.toInt ≤ x.toInt)
        | 4 => decide (x.toNat < y.toNat)
        | 5 => decide (y.toNat ≤ x.toNat)
        | 6 => decide (y.toInt < x.toInt)
        | 7 => decide (x.toInt ≤ y.toInt)
        | 8 => decide (y.toNat < x.toNat)
        | 9 => decide (x.toNat ≤ y.toNat)
        | _ => (List.range 64).any fun i => x.getLsbD i && y.getLsbD i
      Gives (.cmp p cc a b) s (s.landP p (rel (s.S a) (s.S b)))
      ∧ Gives (.cmpi p cc a imm) s (s.landP p (rel (s.S a) (BitVec.ofInt 64 imm.toInt))))
    ∧ ∀ (a b : PReg) (na nb : Bool),
      let x := s.P a ^^ na
      let y := s.P b ^^ nb
      let word (op : BitVec 7) : BitVec 64 :=
        (op ++ p ++ a ++ BitVec.ofBool na ++ b ++ BitVec.ofBool nb ++ (0 : BitVec 11)).setWidth 64
      let names (op : BitVec 7) (i : Instr) : Prop := decodeWord .scalar (word op) Pfx.none = some i
      Gives (.pand p a na b nb) s (s.landP p (x && y))
      ∧ Gives (.por p a na b nb) s (s.landP p (x || y))
      ∧ Gives (.pxor p a na b nb) s (s.landP p (x ^^ y))
      ∧ Gives (.pandn p a na b nb) s (s.landP p (x && !y))
      ∧ names 0x34 (.pand p a na b nb) ∧ names 0x35 (.por p a na b nb) ∧ names 0x36 (.pxor p a na b nb)
      ∧ names 0x37 (.pandn p a na b nb)

/-! ### Control and status registers (R288 to R291) -/

/-- R288, R289: csrr reads the CSR that its number names, for every number of the map that no earlier slot of its bundle has written; of one
that an earlier slot has written it reads the value from before the bundle (R9). -/
def Obligations.CsrReadResults : Prop :=
  ∀ (s : State) (d : Reg),
    let n := s.foc.core
    let c := s.foc.ctx
    let x := s.cx
    let k := s.core n
    let is (num : BitVec 13) (v : Word) : Prop := Gives (.csrr d num) s (s.landS 1 d v)
    let reads (num : BitVec 13) (v : Word) : Prop := (∀ p ∈ x.csrOld, p.1 ≠ num.toNat) → is num v
    (∀ num q, (x.csrOld.find? fun p => p.1 = num.toNat) = some q → is num q.2)
    ∧ reads 0x000 (c.setWidth 64) ∧ reads 0x001 (BitVec.ofNat 64 (n.toNat % 64)) ∧ reads 0x002 (BitVec.ofNat 64 (n.toNat / 64 % 4))
    ∧ reads 0x003 (BitVec.ofNat 64 (n.toNat / 256)) ∧ reads 0x004 (if n.toNat / 256 < 4 then 0 else 1)
    ∧ reads 0x005 (k.capr.setWidth 64) ∧ reads 0x006 k.cyc
    ∧ reads 0x007 (BitVec.ofNat 64 ((if k.stage.isEmpty then 0 else 2) + if k.fh then 1 else 0))
    ∧ reads 0x010 (BitVec.ofNat 64 (x.tres * 65536 + x.a.tfoot.toNat * 256 + x.vunits))
    ∧ reads 0x011 x.guard ∧ reads 0x012 (x.ownid.setWidth 64) ∧ reads 0x013 k.slottab ∧ reads 0x014 k.bankassign
    ∧ reads 0x016 (BitVec.ofNat 64 (x.a.llen.toNat * 256 + x.a.lpos.toNat * 16 + x.a.dims.toNat))
    ∧ reads 0x017 x.a.ctxtime ∧ reads 0x020 x.a.bthr ∧ reads 0x021 x.a.besc ∧ reads 0x022 x.a.mcdef ∧ reads 0x023 x.a.waitctl
    ∧ reads 0x024 x.a.driftthr ∧ reads 0x030 x.a.trapcause ∧ reads 0x031 x.a.trappc ∧ reads 0x032 x.a.trapslot
    ∧ reads 0x033 x.a.donemask ∧ reads 0x034 x.a.traparg ∧ reads 0x035 x.a.trapvec ∧ reads 0x036 x.a.ctxmode
    ∧ reads 0x015 (BitVec.ofNat 64 (k.berthq.length % 16 * 256
        + ((List.range 4).map fun e => if (s.ctx n (BitVec.ofNat 2 e)).run = .dormant then 2 ^ e else 0).sum))
    ∧ ∀ b < 16, reads (BitVec.ofNat 13 (0x40 + b)) (k.bankmodeRd b)

/-- R288, R291: a write of a per-context CSR by csrw, csrs or csrc. RW fields take the value, its union or its difference with the
old one; every reserved and read-only field keeps its value; MCDEF's two write-1-to-clear bits are cleared by csrw alone; TRAPVEC is
ignored while a handler is installed and not running; TRAPPC is writable in the handler. Nothing else changes, but that the value from
before the write is kept for the later slots of the bundle (R9). -/
def Obligations.CsrWriteEffects : Prop :=
  ∀ (s : State) (a : Reg) (num : BitVec 13) (o : CsrOp), (num < 0x40 ∨ 0x50 ≤ num) →
    let v := s.S a
    let i : Instr := match o with | .write => .csrw num a | .set => .csrs num a | .clear => .csrc num a
    let new (old : Word) : Word := match o with | .write => v | .set => old ||| v | .clear => old &&& ~~~v
    let upd (m old : Word) : Word := (new old &&& m) ||| (old &&& ~~~m)
    let old : Nat × Word := (num.toNat, s.csrRead s.foc.core s.foc.ctx num)
    GivesCx i s { s.cx with
      csrOld := s.cx.csrOld ++ [old]
      a := let r := s.cx.a
        match num.toNat with
      | 0x20 => { r with bthr := upd 0x3FF00FF r.bthr }
      | 0x21 => { r with besc := upd 0xFFFFFFFF00000000 r.besc }
      | 0x22 => if o = .write then { r with mcdef := r.mcdef &&& ~~~(v &&& 0xA000000000000000) } else r
      | 0x23 => { r with waitctl := upd 0xFFFFFFFF r.waitctl }
      | 0x24 => { r with driftthr := upd 0xFFFFFFFF r.driftthr }
      | 0x31 => if r.ctxmode.getLsbD 0 then { r with trappc := upd 0xFFFFFFFFFFFC r.trappc } else r
      | 0x35 => if r.trapvec.getLsbD 0 && !r.ctxmode.getLsbD 0 then r else { r with trapvec := upd 0xFFFFFFFFFFFD r.trapvec }
        | _ => r }

/-- R47, R53: csrw of BANKMODEn. The context that BANKASSIGN gives the bank starts a switch by a REQ that differs from MODE: BUSY is
set, MODE stays until the switch completes, and nothing but the bank's own state changes (and the value that later slots of the bundle
read). Any other context takes a permission
violation of subcause 5 and no core changes. -/
def Obligations.BankmodeWrites : Prop :=
  ∀ (s : State) (a : Reg) (b : Nat), b < 16 →
    let n := s.foc.core
    let k := s.core n
    let v := s.S a
    let w := mget 0 k.bankmode b
    let kept (t : State) : State := t.setCx { t.cx with csrOld := t.cx.csrOld ++ [(0x40 + b, k.bankmodeRd b)] }
    let owned := k.bankassign.getLsbD (32 + b) = true ∧ k.bankassign.extractLsb' (2 * b) 2 = s.foc.ctx
    let i : Instr := .csrw (BitVec.ofNat 13 (0x40 + b)) a
    (owned → (k.capr ≠ 256 ∨ b < 8) → w.getLsbD 7 = false → w.extractLsb' 0 2 ≠ 3 → v.extractLsb' 2 2 ≠ 3 →
      v.extractLsb' 2 2 ≠ w.extractLsb' 0 2 →
      (w.extractLsb' 0 2 = 2 → (mget Fifo.zero k.fifo b).q = [] ∧ (mget Fifo.zero k.fifo b).waiting = []) →
      ∃ (w' : Word) (since : SMap Nat), w'.getLsbD 7 = true ∧ w'.extractLsb' 0 2 = w.extractLsb' 0 2
        ∧ w'.extractLsb' 2 2 = v.extractLsb' 2 2
        ∧ Gives i s (kept (s.setCore n { k with bankmode := mset 0 k.bankmode b w', bankSince := since })))
    ∧ (¬owned → Ready i s → k.evts = [] → (s.die (dieOf n)).evt.length < 4096 → ∃ t, exec i s = .next t ∧ (t.ctx n s.foc.ctx).run = .violation ∧ t.cores = s.cores
        ∧ (t.ctx n s.foc.ctx).a.trapcause.extractLsb' 0 20 = 0x80510)

/-! ### Control transfer, traps and endings (R262, R263, R281 to R297) -/

/-- R262: lcw writes a loop count from S[A][31:0] and lcr reads one, zero-extended, each with latency 1.
R296, R286: yield notes when it issued and which other contexts of the core were ready; iswap.stage asks for those of its n lines
that an address of a fetch can name, and ISTAT from before it is kept for the later slots of its bundle (R9). -/
def Obligations.LoopCountsAndYield : Prop :=
  (∀ (s : State) (r : Reg) (n : BitVec 3),
     Gives (.lcw n r) s (s.land 1 [.lc n.toNat ((s.S r).extractLsb' 0 32)])
     ∧ Gives (.lcr r n) s (s.landS 1 r (BitVec.ofNat 64 (mget 0 s.cx.a.lc n.toNat).toNat)))
  ∧ (∀ (s : State),
       let n := s.foc.core
       Gives .yield s (s.setCx { s.cx with
         yieldAt := some (s.core n).cyc.toNat
         yieldSet := ([0, 1, 2, 3].filter fun c : CtxN => c ≠ s.foc.ctx ∧ s.ready n c = true).map (·.toNat) })
       ∧ ∀ (a : Reg) (m : BitVec 10), Gives (.iswapStage a m) s ((s.setCx { s.cx with
             csrOld := s.cx.csrOld ++ [(7, s.csrRead n s.foc.ctx 7)] }).setCore n { s.core n with
           stage := (s.core n).stage ++ ((List.range (m.toNat + 1)).map fun i => (s.foc.ctx.toNat, (s.S a).toNat / 64 + i)).filter fun q => q.2 < 2 ^ 42 }))

/-- R282, R283: a transfer that is taken sets where its bundle continues; call and callr also write s63, latency 1. A branch that is
not taken changes nothing. -/
def Obligations.TransferEffects : Prop :=
  ∀ (s : State),
    let goto (s : State) (t : Word) : State := s.setCx { s.cx with tgt := some t }
    let dest (off : BitVec 45) : Word := s.cx.a.pc + BitVec.ofInt 64 (4 * off.toInt)
    (∀ (p : PReg) (neg : Bool) (off : BitVec 45),
      (s.P p ^^ neg → Gives (.br p neg off) s (goto s (dest off)) ∧ Gives (.call p neg off) s (goto (s.landS 1 63 s.cx.npc) (dest off)))
      ∧ (¬(s.P p ^^ neg) → Gives (.br p neg off) s s ∧ Gives (.call p neg off) s s))
    ∧ (∀ a : Reg, Gives (.jr a) s (goto s (s.S a)) ∧ Gives (.callr a) s (goto (s.landS 1 63 s.cx.npc) (s.S a)))
    ∧ Gives .ret s (goto s (s.S 63))

/-- R292 to R297, R263, R285, R286: these operations take effect after the last slot of their bundle; at their issue they are noted
for that, with what loopn and ifence read of the state before their bundle (R9), and change nothing else, but that a conditional suspend puts
its read of the watched word into the load queue. -/
def Obligations.DeferredControl : Prop :=
  ∀ (s : State),
    let noted (i : Instr) : Prop := Gives i s (s.setCx { s.cx with post := some i })
    let read (i : Instr) (q : PostIn) : Prop := Gives i s (s.setCx { s.cx with post := some i, postIn := q })
    (∀ v n, read (.loopn v n) ⟨0, s.cx.a.rdV v.toNat, s.cx.a.lc⟩) ∧ (∀ a n, read (.ifence a n) ⟨s.S a, 0, []⟩) ∧ noted .ifenceAll ∧ noted .iswap ∧ (∀ n, noted (.trap n))
    ∧ noted .eret ∧ noted .suspendDorm ∧ noted .retire ∧ (∀ a v, noted (.suspend 0 a v))
    ∧ ∀ (c : BitVec 4) (a v : Reg) (ps : List Piece), c ≠ 0 →
        let len := if c = 1 then 8 else 4
        issueTr s.cx s.foc.core ⟨true, false, false⟩ [⟨s.S a, s.S a, len, 0⟩] = .ok ps → (s.S a).toNat % len = 0 →
        GivesCx (.suspend c a v) s { s.cx with
          post := some (.suspend c a v), lq := s.cx.lq ++ [s.mkEntry (.susp c ((s.S v).extractLsb' 0 32)) ps [] none none] }

/-- R292: a software trap in a context with an installed handler that is not running. TRAPCAUSE, TRAPPC, TRAPSLOT, DONEMASK and TRAPARG
take the trap's values, CTXMODE.SUP is set, and the context continues at TRAPVEC.ADDR. Every other register, memory and every other context
are as before (stated for a context whose trace is off, R421). That such a trap writes STOPNAME is the model's reading (log entry 89: R414
names the latest stop and does not say whether a trap that the local handler takes is one), and so is the name that it writes: the next bundle
with K 0, where TRAPPC stands (log entry 89).
R293: eret clears SUP and continues at TRAPPC, as it was before the bundle of the eret; every other architectural register is as before.
That the trap keeps the transfer, the repeat count, what a control operation has read, the CSR values from before the bundle and the mark of a
re-execution in `cut`, and that eret takes the repeat count from there and leaves it empty, is the model's reading (log entry 33). -/
def Obligations.TrapsAndReturns : Prop :=
  (∀ (s : State) (n : CoreN) (c : CtxN) (code : BitVec 8),
     let x := s.ctx n c
     let stopname := 0x7FFFF00000000 + n.toNat / 256 * 0x10000000 + 0x500000 + 0x800 * (n.toNat % 256) + 0x200 * c.toNat + 0x10
     x.post = some (.trap code) → x.opened = false → x.held = false → x.a.trapvec.getLsbD 0 = true → x.a.ctxmode.getLsbD 0 = false →
     x.dbg = false →
     let t := s.settle n c
     let y := t.ctx n c
     y.a = { x.a with
       trapcause := 0x40003
       trappc := x.a.pc &&& 0xFFFFFFFFFFFC
       trapslot := 0
       donemask := 0
       traparg := code.setWidth 64
       ctxmode := 1
       pc := x.a.trapvec &&& 0xFFFFFFFFFFFC
       rep := 0
       cut := ⟨x.tgt, x.a.rep, none, x.postIn, x.csrOld, x.reissue⟩ }
     ∧ y.pend = x.pend ∧ t.mem = s.mem ∧ t.cregs = (s.setCreg stopname (x.a.pc &&& 0xFFFFFFFFFFFC)).cregs ∧ t.cores = s.cores ∧ t.dies = s.dies
     ∧ ∀ m e, ¬(m = n ∧ e = c) → t.ctx m e = s.ctx m e)
  ∧ (∀ (s : State) (n : CoreN) (c : CtxN),
       let x := s.ctx n c
       x.post = some .eret → x.opened = false → x.held = false →
       let t := s.settle n c
       let y := t.ctx n c
       y.a = { x.a with ctxmode := 0, pc := s.csrSeen n c 0x31, rep := x.a.cut.rep, cut := ⟨none, 0, none, .zero, [], false⟩ } ∧ y.pend = x.pend ∧ t.mem = s.mem ∧ t.cregs = s.cregs
       ∧ ∀ m e, ¬(m = n ∧ e = c) → t.ctx m e = s.ctx m e)

/-- R297, R211: retire sends the residency to its end with reason 4. R295: suspend.dorm discards every result in flight and makes the
context dormant, with its registers and CSRs, when no arrival waits and no pre-emption has been asked for; what the engines go on from is then
what has landed.
R285, R286: once the context's released stores are performed, ifence.all discards from both halves every line of the context's
ASID and ifence those that overlap its range, and no line of another ASID; iswap exchanges the halves once no staging is in progress.
R263: loopn takes its bounds from the loop counts and its strides from V[S], both as they were before its bundle; where a bound is 0 the body is
passed over, else the nest is active at its first bundle with every count 0. -/
def Obligations.LeavingAndFences : Prop :=
  (∀ (s : State) (n : CoreN) (c : CtxN),
     let x := s.ctx n c
     x.opened = false → x.held = false →
     (x.post = some .retire → ((s.settle n c).ctx n c).run = .ending 4 ∧ ((s.settle n c).ctx n c).a = { x.a with ev := x.a.acc }
       ∧ ((s.settle n c).ctx n c).sq = x.sq ∧ ((s.settle n c).ctx n c).rq = x.rq)
     ∧ (x.post = some .suspendDorm → (s.core n).berthq = [] → x.preq = none →
       ((s.settle n c).ctx n c).run = .dormant ∧ ((s.settle n c).ctx n c).a = { x.a with ev := x.a.acc } ∧ ((s.settle n c).ctx n c).pend = []
       ∧ ((s.settle n c).ctx n c).sq = x.sq ∧ ((s.settle n c).ctx n c).rq = x.rq))
  ∧ (∀ (s : State) (n : CoreN) (c : CtxN),
       let x := s.ctx n c
       let k := s.core n
       x.opened = false → x.held = false →
       (x.post = some .ifenceAll → x.sq = [] → x.rq = [] →
         ((s.settle n c).core n).istore = k.istore.filter fun l => l.asid != x.asid)
       ∧ (∀ a m, x.post = some (.ifence a m) → x.sq = [] → x.rq = [] → ∀ l : ILine,
           l ∈ ((s.settle n c).core n).istore ↔ l ∈ k.istore ∧ ¬(l.asid = x.asid
             ∧ x.postIn.addr.toNat % 2 ^ 48 / 64 ≤ l.line
             ∧ 64 * l.line < x.postIn.addr.toNat % 2 ^ 48 + 64 * (m.toNat + 1)))
       ∧ (x.post = some .iswap → k.stage = [] → ((s.settle n c).core n).fh = !k.fh ∧ ((s.settle n c).core n).istore = k.istore)
       ∧ (∀ v m len after, x.post = some (.loopn v m) → bodyAt k x.asid x.a.pc 16 0 = .ok len after →
           let a := ((s.settle n c).ctx n c).a
           let lc (d : Nat) : BitVec 32 := mget 0 x.postIn.lc d
           (∀ d < m.toNat, mget 0 a.lbnd d = lc d)
           ∧ (∀ t < 4, ∀ d, 1 ≤ d → d ≤ 5 → mget 0 a.lstr (5 * t + (d - 1)) = x.postIn.v.extractLsb' (16 * (8 * t + d)) 16)
           ∧ ((∃ d < m.toNat, lc d = 0) → a.pc = after ∧ a.dims = x.a.dims ∧ a.lc = x.a.lc)
           ∧ ((∀ d < m.toNat, lc d ≠ 0) → a.pc = x.a.pc ∧ a.body = x.a.pc ∧ a.llen = BitVec.ofNat 4 (len - 1) ∧ a.lpos = 0
             ∧ a.dims = m ∧ ∀ d < 7, mget 0 a.lc d = if d < m.toNat then 0 else mget 0 x.a.lc d)))

/-! ### Vector operations (chapter 12) -/

/-- R311: the arithmetic of integer lanes, modulo 2^w; minimum, maximum and the clamped sums follow the type's signedness; vmulh is the
high half of the product. -/
def Obligations.VectorIntegerArithmetic : Prop :=
  ∀ (s : State) (o : VOp), o.ty.toNat < 8 →
    let a (i : Nat) := s.vA o i
    let b (i : Nat) := s.vB o i
    let c (i : Nat) := s.vC o i
    let z (x : Nat) : Int := laneZ o.ty x
    let put (x : Int) : Nat := zLane o.ty x
    let lo : Int := if o.ty.toNat < 4 then -2 ^ (tyW o.ty - 1) else 0
    let hi : Int := if o.ty.toNat < 4 then 2 ^ (tyW o.ty - 1) - 1 else 2 ^ tyW o.ty - 1
    GivesLanes (.vadd o) o 2 s (fun i => a i + b i)
    ∧ GivesLanes (.vsub o) o 2 s (fun i => put ((a i : Int) - b i))
    ∧ GivesLanes (.vmul o) o 4 s (fun i => a i * b i)
    ∧ GivesLanes (.vfma o) o 4 s (fun i => a i * b i + c i)
    ∧ GivesLanes (.vfms o) o 4 s (fun i => put ((a i : Int) * b i - c i))
    ∧ GivesLanes (.vmin o) o 2 s (fun i => if z (a i) < z (b i) then a i else b i)
    ∧ GivesLanes (.vmax o) o 2 s (fun i => if z (a i) < z (b i) then b i else a i)
    ∧ GivesLanes (.vabs o) o 2 s (fun i => put (z (a i)).natAbs)
    ∧ GivesLanes (.vneg o) o 2 s (fun i => put (-(a i : Int)))
    ∧ GivesLanes (.vadds o) o 2 s (fun i => put (max lo (min hi (z (a i) + z (b i)))))
    ∧ GivesLanes (.vsubs o) o 2 s (fun i => put (max lo (min hi (z (a i) - z (b i)))))
    ∧ GivesLanes (.vmov o) o 2 s a
    ∧ GivesLanes (.vmulh o) o 4 s (fun i => put (z (a i) * z (b i) / 2 ^ tyW o.ty))

/-- R311, R312: the arithmetic of float lanes: one rounding of the exact value; vmin and vmax give the canonical NaN if an operand is NaN;
vabs and vneg change the sign bit alone; vmov copies. -/
def Obligations.VectorFloatArithmetic : Prop :=
  ∀ (s : State) (o : VOp), tyFloat o.ty = true →
    let a (i : Nat) := s.vA o i
    let b (i : Nat) := s.vB o i
    let v (x : Nat) : Val := valOf (laneFmt o.ty) x
    let top := 2 ^ (tyW o.ty - 1)
    let rnd (x : Val) : Nat := rne (laneFmt o.ty) x
    GivesLanes (.vadd o) o 4 s (fun i => rnd (vsum [v (a i), v (b i)]))
    ∧ GivesLanes (.vsub o) o 4 s (fun i => rnd (vsum [v (a i), (v (b i)).neg]))
    ∧ GivesLanes (.vmul o) o 4 s (fun i => rnd (vmul (v (a i)) (v (b i))))
    ∧ GivesLanes (.vfma o) o 4 s (fun i => rnd (vsum [vmul (v (a i)) (v (b i)), v (s.vC o i)]))
    ∧ GivesLanes (.vfms o) o 4 s (fun i => rnd (vsum [vmul (v (a i)) (v (b i)), (v (s.vC o i)).neg]))
    ∧ (∀ mx : Bool, ∃ f : Nat → Nat, GivesLanes (if mx then .vmax o else .vmin o) o 2 s f ∧ ∀ i,
        ((v (a i)).isNan ∨ (v (b i)).isNan → f i = (laneFmt o.ty).nanCode)
        ∧ (¬(v (a i)).isNan → ¬(v (b i)).isNan → (f i = a i ∨ f i = b i)
          ∧ ((v (a i)).lt (v (b i)) → f i = if mx then b i else a i) ∧ ((v (b i)).lt (v (a i)) → f i = if mx then a i else b i)))
    ∧ GivesLanes (.vabs o) o 2 s (fun i => if a i < top then a i else a i - top)
    ∧ GivesLanes (.vneg o) o 2 s (fun i => if a i < top then a i + top else a i - top)
    ∧ GivesLanes (.vmov o) o 2 s a

/-- R313: logic on the bits of each lane, and shifts whose count is the low log2 w bits of b. -/
def Obligations.VectorLogicShifts : Prop :=
  ∀ (s : State) (o : VOp),
    let w := tyW o.ty
    let a (i : Nat) := s.vA o i
    let b (i : Nat) := s.vB o i
    GivesLanes (.vand o) o 2 s (fun i => a i &&& b i)
    ∧ GivesLanes (.vor o) o 2 s (fun i => a i ||| b i)
    ∧ GivesLanes (.vxor o) o 2 s (fun i => a i ^^^ b i)
    ∧ GivesLanes (.vandn o) o 2 s (fun i => (BitVec.ofNat w (a i) &&& ~~~BitVec.ofNat w (b i)).toNat)
    ∧ GivesLanes (.vshl o) o 2 s (fun i => (BitVec.ofNat w (a i) <<< (b i % w)).toNat)
    ∧ GivesLanes (.vshr o) o 2 s (fun i => (BitVec.ofNat w (a i) >>> (b i % w)).toNat)
    ∧ GivesLanes (.vsar o) o 2 s (fun i => ((BitVec.ofNat w (a i)).sshiftRight (b i % w)).toNat)

/-- R314 to R316: vcmp sets bit i of its mask by the relation of lane i, which the table of R314 gives for integer lanes, as integers, and
for float lanes, as values (where +0 and −0 are the same number and nothing but ne and un holds of a NaN); it keeps or clears the bit of an inactive lane, and clears every bit at
or above the lane count; vsel takes each lane from VA or VB by a mask; the mask operations act on whole masks; mpop counts the bits of the
type's lanes. -/
def Obligations.VectorCompareSelectMask : Prop :=
  ∀ (s : State) (o : VOp),
    (Ready (.vcmp o) s → ∃ m : Word, exec (.vcmp o) s = .next (s.land 2 [.m o.vd.toNat m]) ∧ ∀ i < 64,
      let a := s.vA o i
      let b := if o.fn.getLsbD 4 then (s.S (o.vb.setWidth 6)).toNat % 2 ^ tyW o.ty else lane (tyW o.ty) (s.V o.vb) i
      (laneCount o.ty ≤ i → m.getLsbD i = false)
      ∧ (i < laneCount o.ty → laneGets s o i → m.getLsbD i = laneCc (o.fn.toNat % 16) o.ty a b)
      ∧ (i < laneCount o.ty → ¬laneGets s o i →
          m.getLsbD i = ((s.cx.a.rdM o.vd.toNat).getLsbD i && !(o.mz && decide (i < s.cnt o.vcnt)))))
    ∧ (tyInt o.ty = true → ∀ a b,
        (laneCc 0 o.ty a b = decide (laneInt o.ty a = laneInt o.ty b)) ∧ (laneCc 1 o.ty a b = decide (laneInt o.ty a ≠ laneInt o.ty b))
        ∧ (laneCc 2 o.ty a b = decide (laneInt o.ty a < laneInt o.ty b)) ∧ (laneCc 3 o.ty a b = decide (laneInt o.ty b ≤ laneInt o.ty a))
        ∧ (laneCc 4 o.ty a b = decide (laneInt o.ty b < laneInt o.ty a)) ∧ (laneCc 5 o.ty a b = decide (laneInt o.ty a ≤ laneInt o.ty b)))
    ∧ (tyFloat o.ty = true → ∀ a b,
        let cc (n : Nat) : Bool := laneCc n o.ty a b
        -- the value of a finite lane, in units of 2^u
        let units (n : Bool) (m : Nat) (e u : Int) : Int := (if n then -1 else 1) * m * 2 ^ (e - u).toNat
        let gives (eq lt gt : Bool) : Prop := cc 0 = eq ∧ cc 1 = !eq ∧ cc 2 = lt ∧ cc 3 = !lt ∧ cc 4 = gt ∧ cc 5 = !gt ∧ cc 6 = false
        match valOf (laneFmt o.ty) a, valOf (laneFmt o.ty) b with
        | .nan, _ | _, .nan => cc 0 = false ∧ cc 1 = true ∧ cc 2 = false ∧ cc 3 = false ∧ cc 4 = false ∧ cc 5 = false ∧ cc 6 = true
        | .inf n, .inf m => gives (n == m) (n && !m) (m && !n)
        | .inf n, .num _ _ _ => gives false n (!n)
        | .num _ _ _, .inf m => gives false (!m) m
        | .num n x e, .num m y g =>
          let u := min e g
          gives (decide (units n x e u = units m y g u)) (decide (units n x e u < units m y g u)) (decide (units m y g u < units n x e u)))
    ∧ GivesLanes (.vsel o) o 2 s (fun i => if (s.cx.a.rdM o.mreg.toNat).getLsbD i then s.vA o i else lane (tyW o.ty) (s.V o.vb) i)
    ∧ (let x := s.cx.a.rdM o.va.toNat
       let y := s.cx.a.rdM o.vb.toNat
       Gives (.mand o) s (s.land 1 [.m o.vd.toNat (x &&& y)]) ∧ Gives (.mor o) s (s.land 1 [.m o.vd.toNat (x ||| y)])
       ∧ Gives (.mxor o) s (s.land 1 [.m o.vd.toNat (x ^^^ y)]) ∧ Gives (.mandn o) s (s.land 1 [.m o.vd.toNat (x &&& ~~~y)])
       ∧ Gives (.mpop o) s (s.land 2 [.s o.vd.toNat (BitVec.ofNat 64 ((List.range (laneCount o.ty)).countP x.getLsbD))]))

/-- R322: where each lane of a lane move comes from. -/
def Obligations.VectorLaneMoves : Prop :=
  ∀ (s : State) (o : VOp),
    let w := tyW o.ty
    let l := laneCount o.ty
    let a (j : Nat) := lane w (s.V o.va) j
    let b (j : Nat) := lane w (s.V o.vb) j
    let h := if o.fn.getLsbD 0 then 1 else 0
    GivesLanes (.vperm o) o 3 s (fun i => a (b i % 64 % l))
    ∧ GivesLanes (.vbcast o) o 2 s (fun _ => a o.vb.toNat)
    ∧ GivesLanes (.vbcastScalar o) o 2 s (fun _ => (s.S (o.vb.setWidth 6)).toNat)
    ∧ GivesLanes (.vlane o) o 2 s (fun i => (s.S (o.vb.setWidth 6)).toNat + i)
    ∧ Gives (.vmovs o) s (s.land 2 [.s o.vd.toNat
        (if o.ty.toNat < 4 then (BitVec.ofNat w (a o.vb.toNat)).signExtend 64 else BitVec.ofNat 64 (a o.vb.toNat))])
    ∧ (Ready (.vmovl o) s → ∃ r : VReg, exec (.vmovl o) s = .next (s.land 2 [.v o.vd.toNat r]) ∧ ∀ i < l,
        lane w r i = if i = o.vb.toNat then (s.S (o.va.setWidth 6)).toNat % 2 ^ w else lane w (s.V o.vd) i)
    ∧ GivesLanes (.vslide o) o 3 s (fun i => if i + o.fn.toNat < l then a (i + o.fn.toNat) else b (i + o.fn.toNat - l))
    ∧ GivesLanes (.vzip o) o 3 s (fun i => if i % 2 = 0 then a (h * (l / 2) + i / 2) else b (h * (l / 2) + i / 2))
    ∧ GivesLanes (.vunzip o) o 3 s (fun i => if i < l / 2 then a (2 * i + h) else b (2 * (i - l / 2) + h))

/-- R317 to R320: a conversion of equal width or a widening writes each active lane with the converted source lane; a narrowing writes the
lanes of its part and keeps every other lane; an integer source widened or narrowed to an integer keeps its value modulo 2^w. vqnt and vdqnt
write their registers: the packed elements and the scale of one block, and the thirty-six values of one.
R321: a reduction writes lane 0 with the tree's result over the active lanes and every other lane zero; for integers that is the sum modulo
2^w, the greatest and the least active value; with no active lane an integer sum is 0, the maximum the least value of the type and the
minimum the greatest, and a float result is the canonical NaN for maximum and minimum. -/
def Obligations.VectorConversionsAndReductions : Prop :=
  (∀ (s : State) (o : VOp),
     let t := o.ty
     let u := o.srcTy
     let n := 512 / max (tyW t) (tyW u)
     let conv (j : Nat) : Nat := cvtLane (rmOf o.fn) (bitAt o.fn 3) t u (lane (tyW u) (s.V o.va) j)
     (tyW t = tyW u → GivesLanes (.vcvt o) o 4 s conv)
     ∧ (tyW u < tyW t → GivesLanes (.vcvt o) o 4 s (fun i => conv (o.part * n + i)))
     ∧ (tyW t < tyW u → Ready (.vcvt o) s → ∃ r : VReg, exec (.vcvt o) s = .next (s.land 4 [.v o.vd.toNat r]) ∧ ∀ i < laneCount t,
         (o.part * n ≤ i → i < o.part * n + n →
           (laneGets s o i → lane (tyW t) r i = conv (i - o.part * n) % 2 ^ tyW t)
           ∧ (¬laneGets s o i → lane (tyW t) r i = if o.mz = true ∧ i < s.cnt o.vcnt then 0 else lane (tyW t) (s.V o.vd) i))
         ∧ (i < o.part * n ∨ o.part * n + n ≤ i → lane (tyW t) r i = lane (tyW t) (s.V o.vd) i))
     ∧ (∀ (rm : Rm) (sat : Bool) (x : Nat),
         let lo : Int := if t.toNat < 4 then -2 ^ (tyW t - 1) else 0
         let hi : Int := if t.toNat < 4 then 2 ^ (tyW t - 1) - 1 else 2 ^ tyW t - 1
         let got := cvtLane rm sat t u x
         (tyInt t = true → tyInt u = true → got = zLane t (if sat then max lo (min hi (laneZ u x)) else laneZ u x))
         ∧ (tyFloat t = true → tyInt u = true → got = encVal (laneFmt t) rm (.num (decide (laneZ u x < 0)) (laneZ u x).natAbs 0))
         ∧ (tyFloat t = true → tyFloat u = true → got = encVal (laneFmt t) rm (valOf (laneFmt u) x))
         ∧ (tyInt t = true → tyFloat u = true → match valOf (laneFmt u) x with
           | .nan => got = 0
           | .inf n => got = zLane t (if n then lo else hi)
           | .num n m e => ∃ q, RoundsTo rm ((if n then -1 else 1) * m * 2 ^ e.toNat) (2 ^ (-e).toNat) q
             ∧ got = zLane t (max lo (min hi q))))
     ∧ (Ready (.vqnt o) s → ∃ r : VReg, exec (.vqnt o) s = .next (s.land 8 [.v o.vd.toNat r])
         ∧ let l := 512 / tyW u
           let xs := (List.range 36).map fun e => valOf (laneFmt u) (lane (tyW u) (s.V (o.va + BitVec.ofNat 10 (e / l))) (e % l))
           let sc := qscale t xs
           r.extractLsb' 504 8 = BitVec.ofNat 8 sc
           ∧ (∀ i, 36 * mxBits t ≤ i → i < 504 → r.getLsbD i = false)
           ∧ ∀ e < 36, (r >>> (mxBits t * e)).toNat % 2 ^ mxBits t
               = if sc = 255 then 0 else (quant t sc (xs.getD e .nan) % 2 ^ mxBits t).toNat)
     ∧ (∀ (sc : Nat) (n : Bool) (m : Nat) (e : Int),
         let step : Int := sc - 127 - mxF t
         let lim : Int := 2 ^ (mxBits t - 1) - 1
         ∃ q, RoundsTo .rne ((if n then -1 else 1) * m * 2 ^ (e - step).toNat) (2 ^ (step - e).toNat) q
           ∧ quant t sc (.num n m e) = max (-lim) (min lim q))
     ∧ (Ready (.vdqnt o) s → ∃ r : Nat → VReg,
         exec (.vdqnt o) s = .next (s.land 4 ((List.range (if t = 8 then 3 else 2)).map fun q => .v (o.vd + BitVec.ofNat 10 q).toNat (r q)))
         ∧ ∀ q < (if t = 8 then 3 else 2), ∀ j < laneCount t,
           let e := laneCount t * q + j
           lane (tyW t) (r q) j = if e < 36 then
             rne (laneFmt t) (mxVal u (BitVec.ofNat (mxBits u) ((s.V o.va) >>> (mxBits u * e)).toNat).toInt ((s.V o.va).extractLsb' 504 8).toNat)
               % 2 ^ tyW t else 0))
  ∧ (∀ (s : State) (o : VOp),
       let lat := if tyFloat o.ty then 8 else 4
       let z (x : Nat) : Int := laneZ o.ty x
       let v (x : Nat) : Val := valOf (laneFmt o.ty) x
       let act (i : Nat) : Prop := i < laneCount o.ty ∧ laneGets s o i
       let canon (x : Nat) : Nat := if tyFloat o.ty && (v x).isNan then (laneFmt o.ty).nanCode else x
       let reduces (i : Instr) (empty : Nat) (f : Nat → Nat → Nat) (ints : Nat → Prop) : Prop :=
         Ready i s → ∃ x, exec i s = .next (s.land lat [.v o.vd.toNat (BitVec.ofNat 512 x)]) ∧ x < 2 ^ tyW o.ty
           ∧ ((∀ i, ¬act i) → x = empty)
           ∧ (∀ ls : List (Option Nat), ls.length = laneCount o.ty →
               (∀ i < laneCount o.ty, (laneGets s o i → ls[i]? = some (some (s.vA o i))) ∧ (¬laneGets s o i → ls[i]? = some none)) →
               x = canon ((treeRed f 6 ls).getD empty))
           ∧ (tyFloat o.ty = false → ints x)
       let least : Int := if o.ty.toNat < 4 then -2 ^ (tyW o.ty - 1) else 0
       let most : Int := if o.ty.toNat < 4 then 2 ^ (tyW o.ty - 1) - 1 else 2 ^ tyW o.ty - 1
       reduces (.vredsum o) 0
         (fun a b => if tyFloat o.ty then rne (laneFmt o.ty) (vsum [v a, v b]) else zLane o.ty (z a + z b))
         (fun x => ∀ l : List Nat, l.Nodup → (∀ i, i ∈ l ↔ act i) → x = (l.map (s.vA o)).sum % 2 ^ tyW o.ty)
       ∧ reduces (.vredmax o) (if tyFloat o.ty then (laneFmt o.ty).nanCode else zLane o.ty least) (laneMM true o.ty)
         (fun x => (∃ i, act i) → (∃ i, act i ∧ x = s.vA o i) ∧ ∀ i, act i → z (s.vA o i) ≤ z x)
       ∧ reduces (.vredmin o) (if tyFloat o.ty then (laneFmt o.ty).nanCode else zLane o.ty most) (laneMM false o.ty)
         (fun x => (∃ i, act i) → (∃ i, act i ∧ x = s.vA o i) ∧ ∀ i, act i → z x ≤ z (s.vA o i)))

/-- R323, R324: the approximations write every active lane, with the values of the table at NaN, zeros, infinities and negative operands;
a .f32 result has bits 11 to 0 zero.
R325: vrng draws each lane from the counter S[C] plus the lane's index. -/
def Obligations.VectorApproximationsAndDraws : Prop :=
  (∀ (s : State) (o : VOp) (k : Nat), k < 5 →
     let i : Instr := match k with | 0 => .vrcp o | 1 => .vrsqrt o | 2 => .vexp2 o | 3 => .vlog2 o | _ => .vtanh o
     let enc (v : Val) : Nat := encVal (laneFmt o.ty) .rne v
     let zero (n : Bool) : Val := .num n 0 0
     let one (n : Bool) : Val := .num n 1 0
     ∃ f : Nat → Nat, GivesLanes i o 10 s f ∧ (Ready i s → ∀ j,
       (o.ty = 8 → f j % 2 ^ 12 = 0)
       ∧ match valOf (laneFmt o.ty) (s.vA o j) with
         | .nan => f j = (laneFmt o.ty).nanCode
         | .inf n => f j = (match k with
           | 0 => enc (zero n)
           | 1 => if n then (laneFmt o.ty).nanCode else enc (zero false)
           | 2 => if n then enc (zero false) else enc (.inf false)
           | 3 => if n then (laneFmt o.ty).nanCode else enc (.inf false)
           | _ => enc (one n))
         | .num n 0 _ => f j = (match k with
           | 0 => enc (.inf n) | 1 => enc (.inf n) | 2 => enc (one false) | 3 => enc (.inf true) | _ => enc (zero n))
         | .num true _ _ => k = 1 ∨ k = 3 → f j = (laneFmt o.ty).nanCode
         | _ => True))
  ∧ (∀ (s : State) (o : VOp),
       let z (i : Nat) : Word := rng64 (s.S (o.va.setWidth 6)) (s.S (o.vb.setWidth 6) + BitVec.ofNat 64 i)
       (o.fn = 0 → GivesLanes (.vrng o) o 8 s (fun i => (z i).toNat))
       ∧ (o.fn = 1 → o.ty = 8 → GivesLanes (.vrng o) o 8 s (fun i => rne fmt32 (.num false ((z i) >>> 40).toNat (-24))))
       ∧ (o.fn = 1 → o.ty = 9 → GivesLanes (.vrng o) o 8 s (fun i => rne fmt64 (.num false ((z i) >>> 11).toNat (-53))))
       ∧ (o.fn = 1 → o.ty = 10 → GivesLanes (.vrng o) o 8 s (fun i => rne fmtB16 (.num false ((z i) >>> 56).toNat (-8)))))

/-! ### Matrix and tile operations (chapters 14 and 15) -/

/-- R379, R383 to R385, R377: mma, mmas, tadd and tscl. The engine is occupied for the core's kind; one result is due at the latency of the
timing class and arrives when the core's kind has computed it; in each copy, every cell of the first c rows is the one rounding, to the precision P, of the exact value, as the engine that
writes the copy gives it, and where the accumulator's precision changes the rows beyond are converted; the old cells are those of program
order. The two folds are those of R177 over the rows written and converted. The bound is that of R160 (for tadd and tscl of R161) with ρ of R159
over the whole accumulator as it then stands, and +∞ where a cell of it is not finite (R165). With a count of 0 nothing lands. Nothing else of
the context's registers, no memory and no other context changes. That a position of a sparse operand that the metadata does not name adds
nothing to the sum is the model's reading (log entry 14). -/
def Obligations.MatrixEngineResults : Prop :=
  ∀ (s : State) (o : MOp),
    let n := s.foc.core
    let x := s.cx
    let f := x.a.ev
    let c := min 32 (s.cnt o.vcnt)
    let prec := o.pr || x.a.besc.getLsbD 0
    let fm := if prec then fmt64 else fmt32
    let rows := if f.precOf o.d.toNat = prec then c else 32
    let gives (i : Instr) (occ lp lg : Nat) (exact : (Nat → Nat → Nat → Val) → Nat → Nat → Val) (bound : BitVec 32) : Prop :=
      let val (old : Nat → Nat → Nat → Word) (m i j : Nat) := cellVal (f.precOf m) (old m i j)
      let exactAt (old : Nat → Nat → Nat → Word) (i j : Nat) : Val := if i < c then exact (val old) i j else val old o.d.toNat i j
      let cell (shadow : Bool) (old : Nat → Nat → Nat → Word) (i j : Nat) : Word :=
        applyStuck (s.core n).stuck shadow prec i j (BitVec.ofNat 64 (rne fm (exactAt old i j)))
      let tile : List Val := (List.range 1024).map fun q => if q < 32 * rows then cellVal prec (cell false f.cellP (q / 32) (q % 32))
        else val f.cellP o.d.toNat (q / 32) (q % 32)
      let inx := (List.range (32 * rows)).any fun q => inexact fm (exactAt f.cellP (q / 32) (q % 32))
      Ready i s → ∃ t, exec i s = .next t
        ∧ t.core n = { s.core n with engFree := (s.core n).cyc.toNat + (if n.toNat / 256 < 4 then occ else 2 * occ) }
        ∧ t.mem = s.mem ∧ t.cregs = s.cregs ∧ t.dies = s.dies ∧ (∀ m e, ¬(m = n ∧ e = s.foc.ctx) → t.ctx m e = s.ctx m e)
        ∧ t.cx.a = { x.a with ev := t.cx.a.ev }
        ∧ (c = 0 → t.cx = x)
        ∧ (c ≠ 0 → ∃ cells ba fp fs,
            t.cx.pend = x.pend ++ [⟨x.a.ctxtime.toNat + (if x.classG then lg else lp), x.seq, x.a.pc, s.foc.slot, x.a.rep.toNat, false,
              (s.core n).cyc.toNat + (if n.toNat / 256 < 4 then lp else lg), [.acc o.d.toNat cells (some prec) (some ba) fp fs]⟩]
            ∧ cells.map (·.1) = List.range (32 * rows)
            ∧ (∀ i < rows, ∀ j < 32, (32 * i + j, cell false f.cellP i j, cell true f.cellS i j) ∈ cells)
            ∧ fp.toNat = (cells.map fun q => q.2.1.toNat * (2 * q.1 + 1)).sum % 2 ^ 64
            ∧ fs.toNat = (cells.map fun q => q.2.2.toNat * (2 * q.1 + 1)).sum % 2 ^ 64
            ∧ ba = if tile.any fun v => !v.finite then bInf else badd bound (up32 (rho fm tile inx)))
    let k := mmaK o.fa o.fb
    let d := mmaD o.fa o.fb
    let ds := (d * keepN (o.fn.toNat / 16) + 11) / 12
    let elA (i e : Nat) : Val := (x.a.operandRow o.ta.toNat o.fa k (o.fn.toNat % 4) o.ka.toNat i).getD e .nan
    let elB (j e : Nat) : Val := (x.a.operandRow o.tb.toNat o.fb k (o.fn.toNat / 4 % 4) o.kb.toNat j).getD e .nan
    let elS (j e : Nat) : Option Val :=
      ((expandRow o.fb (keepN (o.fn.toNat / 16)) (k / 12) (x.a.row o.tb.toNat j) (x.a.row o.meta3.toNat j)).getD e none).map
        (elemVal o.fb (if tyMx o.fb then x.a.scaleOf (o.fn.toNat / 4 % 4) o.kb.toNat (k / 36) j (e / 36) else 0))
    let bA := x.a.bound o.ta.toNat
    let bB := x.a.bound o.tb.toNat
    let rowabs := maxAbs ((List.range c).map fun i => (List.range k).map (elA i))
    let bound (cols : List (List Val)) : BitVec 32 :=
      badd (badd (badd (f.baOf o.d.toNat) (bmul bA (maxAbs cols))) (bmul bB rowabs)) (bmul (bmul (up32 (.num false k 0)) bA) bB)
    gives (.mma o) d (d + 8) (2 * d + 8)
      (fun old i j => vsum (old o.d.toNat i j :: (List.range k).map fun e => opMul o.fa (elA i e) (elB j e)))
      (bound ((List.range 32).map fun j => (List.range k).map (elB j)))
    ∧ gives (.mmas o) ds (ds + 8) (2 * ds + 8)
      (fun old i j => vsum (old o.d.toNat i j :: (List.range k).filterMap fun e => (elS j e).map (opMul o.fa (elA i e))))
      (bound ((List.range 32).map fun j => (List.range k).filterMap (elS j)))
    ∧ gives (.tadd o) 2 8 10 (fun old i j => vsum [old o.ta.toNat i j, old o.tb.toNat i j])
      (badd (f.baOf o.ta.toNat) (f.baOf o.tb.toNat))
    ∧ (let w := valOf fmt32 ((s.S (o.aux.setWidth 6)).toNat % 2 ^ 32)
       gives (.tscl o) 2 8 10 (fun old i j => vmul (old o.ta.toNat i j) w) (bmul (f.baOf o.ta.toNat) (up32 w)))

/-- R370 to R374: tcvt, tqnt, tcmpr, tdcmp and tmov. Each occupies the engine and sends one result for its destination tile, due at the
latency of the timing class, whose elements come from the source as the rule of each says, with its bound; tqnt writes the blocks' scales as
well (an element that is no number, for which the rule states no code, is left open: log entry 7), and tcmpr its metadata tile. Nothing
else changes. That a tcvt of no rows leaves its destination, bound and origin among it, as it was is the model's reading (log entry 50). -/
def Obligations.TileConversionResults : Prop :=
  ∀ (s : State) (o : MOp),
    let n := s.foc.core
    let x := s.cx
    let a := x.a
    let ta := o.ta.toNat
    let tb := o.tb.toNat
    let sa := a.shapeOf ta
    let sb := a.shapeOf tb
    let busy (occ : Nat) : State :=
      s.setCore n { s.core n with engFree := (s.core n).cyc.toNat + (if n.toNat / 256 < 4 then occ else 2 * occ) }
    let sends (u : State) (p g : Nat) (ws : List Write) : State := u.setCx { u.cx with
      pend := u.cx.pend ++ [⟨x.a.ctxtime.toNat + (if x.classG then g else p), x.seq, a.pc, s.foc.slot, a.rep.toNat, false,
        (s.core n).cyc.toNat + (if n.toNat / 256 < 4 then p else g), ws⟩] }
    let bits := if o.fa = 8 then 32 else if o.fa = 10 then 16 else mxBits o.fa
    let el (r : RowW) (w e : Nat) : Nat := r.v / 2 ^ (w * e) % 2 ^ w
    let c := min sa.rows (s.cnt o.vcnt)
    let fm := if o.fa = 8 then fmt32 else fmtB16
    (Ready (.tcvt o) s → ∃ t, exec (.tcvt o) s = .next t ∧ (c = 0 → t = busy 4)
      ∧ (c ≠ 0 → ∃ (r : Nat → RowW) (b : BitVec 32), t = sends (busy 4) 8 12 [.tile ta ((List.range c).map r) (some b) (some .none)]
        ∧ (let cell (i j : Nat) : Val := cellVal (a.ev.precOf o.d.toNat) (a.ev.cellP o.d.toNat i j)
           let vs := (List.range c).flatMap fun i => (List.range (sa.rlen * 8 / bits)).map (cell i)
           let conv := vs.map fun v => valOf fm (rne fm v)
           let β := badd (a.ev.baOf o.d.toNat) (up32 (rho fm conv (vs.any (inexact fm))))
           b = if conv.any fun v => !v.finite then bInf else if c = sa.rows then β else if (a.bound ta).toNat < β.toNat then β else a.bound ta)
        ∧ ∀ i < c, (r i).row = i ∧ (r i).lo = 0 ∧ (r i).len = 8 * sa.rlen ∧ ∀ j < sa.rlen * 8 / bits,
            el (r i) bits j = rne fm (cellVal (a.ev.precOf o.d.toNat) (a.ev.cellP o.d.toNat i j)) % 2 ^ bits))
    ∧ (Ready (.tqnt o) s →
        let nb := sa.rlen * 8 / (36 * mxBits o.fa)
        let nbB := if o.fb = 8 then sb.rlen / 144 else sb.rlen / 72
        let xs (q : Nat) : List Val := (List.range 36).map fun u => elemVal o.fb 0 (rowElem o.fb (a.row tb (q / nbB)) (36 * (q % nbB) + u))
        let sc (q : Nat) : Nat := qscale o.fa (xs q)
        let count := sa.rows * nb
        ∃ (r : Nat → RowW) (b : BitVec 32) (ks : Nat → BitVec 16 × BitVec 128) (free : Nat),
        exec (.tqnt o) s = .next (sends { busy 8 with freeCtr := free } 14 22 (.tile ta ((List.range sa.rows).map r) (some b) (some .none)
          :: (List.range ((count + 15) / 16)).map fun q => .k ((o.ka.toNat + q) % 16) (ks q).1 (ks q).2))
        ∧ (∀ q < count, ((ks (q / 16)).1.getLsbD (q % 16) = true ∧ ((ks (q / 16)).2 >>> (8 * (q % 16))).toNat % 256 = sc q))
        ∧ (∀ q, count ≤ q → (ks (q / 16)).1.getLsbD (q % 16) = false ∨ (count + 15) / 16 ≤ q / 16)
        ∧ ((∃ q < count, sc q = 255) → b = bInf)
        ∧ ((∀ q < count, sc q ≠ 255) → free = s.freeCtr
            ∧ b = badd (a.bound tb) (up32 (((List.range count).map fun q => blockH o.fa (sc q) (xs q)).foldl vmaxMag (.num false 0 0))))
        ∧ ∀ i < sa.rows, (r i).row = i ∧ (r i).lo = 0 ∧ (r i).len = 8 * sa.rlen ∧ ∀ g < nb, ∀ e < 36,
            let q := i * nb + g
            ((xs q).getD e .nan).finite = true →
            el (r i) (mxBits o.fa) (36 * g + e) = (quant o.fa (sc q) ((xs q).getD e .nan) % 2 ^ mxBits o.fa).toNat)
    ∧ (Ready (.tcmpr o) s → ∃ (r m : Nat → RowW),
        exec (.tcmpr o) s = .next (sends (busy 4) 8 12
          [.tile ta ((List.range sb.rows).map r) (some (a.bound tb)) (some .none),
           .tile o.meta3.toNat ((List.range sb.rows).map m) (some 0) (some .none)])
        ∧ ∀ i < sb.rows,
          let groups := List.range (sb.rlen * 8 / bits / 12)
          let src (e : Nat) : Nat := rowElem o.fa (a.row tb i) e
          let nan (e : Nat) : Bool := tyMx o.fa && a.scaleByte o.ka.toNat (i * (sb.rlen * 8 / bits / 36) + e / 36) == 255
          let key (g : Nat) : List (Nat × Nat) := (List.range 12).map fun e => rankKey o.fa (nan (12 * g + e)) (src (12 * g + e))
          let kept (g : Nat) : List Nat :=
            (List.range 12).filter fun e => decide (((List.range 12).countP fun u => ranksBefore (key g) u e) < keepN o.fn.toNat)
          (r i).row = i ∧ (m i).row = i ∧ (r i).lo = 0 ∧ (m i).lo = 0
          ∧ (r i).len = 8 * sa.rlen ∧ (m i).len = 8 * (a.shapeOf o.meta3.toNat).rlen
          ∧ (r i).v = packLanes bits (groups.flatMap fun g => (kept g).map fun e => src (12 * g + e))
          ∧ (m i).v = packLanes 4 (groups.flatMap kept))
    ∧ (Ready (.tdcmp o) s → ∃ r : Nat → RowW,
        exec (.tdcmp o) s = .next (sends (busy 4) 8 12 [.tile ta ((List.range sa.rows).map r) (some (a.bound tb)) (some .none)])
        ∧ ∀ i < sa.rows, (r i).row = i ∧ (r i).lo = 0 ∧ (r i).len = 8 * sa.rlen ∧ ∀ e < sa.rlen * 8 / bits,
            el (r i) bits e = ((expandRow o.fa (keepN o.fn.toNat) (sa.rlen * 8 / bits / 12) (a.row tb i) (a.row o.meta3.toNat i)).getD e
              none).getD 0)
    ∧ (ta ≠ tb → Gives (.tmov o) s (sends (busy 2) 4 6 [.tile ta ((List.range sb.rows).map fun i =>
        ⟨i, 0, 8 * sb.rlen, (a.row tb i).toNat⟩) (some (a.bound tb)) (some (mget .none a.origin tb))]))
    ∧ (ta = tb → Gives (.tmov o) s (busy 2))

/-- R365: the slice moves. Index i is IDX plus the scalar. trw and tcw write row i, or words i of every row, of a tile or accumulator from
consecutive vector registers; trr and tcr write those registers from it. A write of an operand tile ends its origin; its bound stays, but for
trw into a tile of one row, whose bound it sets to 0 (R164).
R366, R368, R369, R386 to R388: tzero, the scale register moves, the bound and the signature registers. sld of an offset below 64 decodes
sixteen scales and writes back the position after them; with a greater offset both of its results are values the spec leaves open (log
entry 7). -/
def Obligations.SlotXResults : Prop :=
  (∀ (s : State) (o : XOp),
     let a := s.cx.a
     let t := o.t.toNat
     let i := o.idx.toNat + (s.S o.s).toNat
     let vreg (q : Nat) : VReg := s.V (o.v + BitVec.ofNat 10 q)
     let word (m : Nat) : Nat := (vreg (m / 16)).toNat / 2 ^ (32 * (m % 16)) % 2 ^ 32
     let sh := a.shapeOf t
     let wide := a.besc.getLsbD 0
     let a64 := a.ev.precOf (t - 8)
     let bit : BitVec 4 := 1 <<< (t - 8)
     let mark (u : State) : State := u.setCx { u.cx with
       wrAcc := u.cx.wrAcc ||| bit
       wr32 := if a64 then u.cx.wr32 else u.cx.wr32 ||| bit
       esc := if wide && !a64 then u.cx.esc ||| bit else u.cx.esc }
     (t < 8 → Ready (.trw o) s → ∃ v : Nat,
         exec (.trw o) s = .next (s.land 2 [.tile t [⟨i, 0, 8 * sh.rlen, v⟩] (if sh.rows = 1 then some 0 else none) (some .none)])
         ∧ ∀ m < sh.rlen / 4, v / 2 ^ (32 * m) % 2 ^ 32 = word m)
     ∧ (8 ≤ t → Gives (.trw o) s (mark (s.land 2 [.accw (t - 8) ((List.range 32).map fun j => (32 * i + j, BitVec.ofNat 32 (word j))) wide])))
     ∧ (t < 8 → Gives (.tcw o) s (s.land 2 [.tile t ((List.range sh.rows).map fun m => ⟨m, 32 * i, 32, word m⟩) none (some .none)]))
     ∧ (8 ≤ t → Gives (.tcw o) s (mark (s.land 2 [.accw (t - 8) ((List.range 32).map fun m => (32 * m + i, BitVec.ofNat 32 (word m))) wide])))
     ∧ (Ready (.trr o) s → ∃ r : Nat → VReg,
         exec (.trr o) s = .next (s.land 3 ((List.range (a.rowRegs t)).map fun q => .v (o.v + BitVec.ofNat 10 q).toNat (r q)))
         ∧ ∀ m, m < (if t < 8 then sh.rlen / 4 else 32) →
             (r (m / 16)).toNat / 2 ^ (32 * (m % 16)) % 2 ^ 32 = a.tileWord t i m % 2 ^ 32)
     ∧ (Ready (.tcr o) s → ∃ r : Nat → VReg,
         exec (.tcr o) s = .next (s.land 4 ((List.range (a.colRegs t)).map fun q => .v (o.v + BitVec.ofNat 10 q).toNat (r q)))
         ∧ ∀ m < a.rowsOf t, (r (m / 16)).toNat / 2 ^ (32 * (m % 16)) % 2 ^ 32 = a.tileWord t m i % 2 ^ 32))
  ∧ (∀ (s : State) (o : XOp),
       let a := s.cx.a
       let t := o.t.toNat
       let touch (u : State) : State := u.setCx (if t < 8 then u.cx else { u.cx with wrBnd := u.cx.wrBnd ||| (1 <<< (t - 8)) })
       let low : BitVec 32 := (s.S o.s).extractLsb' 0 32
       (t < 8 → Gives (.tzero o) s (s.land 1 [.tile t ((List.range 32).map fun i => ⟨i, 0, 1152, 0⟩) (some 0) (some .zero)]))
       ∧ (8 ≤ t → Gives (.tzero o) s
           (let u := s.land 1 [.acc (t - 8) ((List.range 1024).map fun q => (q, 0, 0)) (some false) (some 0) 0 0]
            let bit : BitVec 4 := 1 <<< (t - 8)
            u.setCx { u.cx with wrAcc := u.cx.wrAcc ||| bit, wrBnd := u.cx.wrBnd ||| bit, wr32 := u.cx.wr32 ||| bit }))
       ∧ Gives (.kwr o) s (s.land 1 [.k t 0xFFFF ((s.V o.v).extractLsb' 0 128)])
       ∧ Gives (.krd o) s (s.land 2 [.v o.v.toNat (BitVec.ofNat 512 (a.rdK t).toNat)])
       ∧ ((s.S o.s).toNat < 64 → Ready (.sld o) s → ∃ x : BitVec 128,
           let b := 2 ^ o.idx.toNat
           let nib (p : Nat) : Nat := (s.V (o.v + 1) ++ s.V o.v).toNat / 2 ^ (4 * p) % 16
           let all := sldRows nib b (16 / b) (2 * (s.S o.s).toNat)
           exec (.sld o) s = .next (s.land 4 [.k t 0xFFFF x, .s o.s.toNat (BitVec.ofNat 64 ((all.2 + 1) / 2))])
           ∧ ∀ g < 16, (x >>> (8 * g)).toNat % 256 = all.1.getD g 0 % 256)
       ∧ (64 ≤ (s.S o.s).toNat → Ready (.sld o) s → ∃ (x : BitVec 128) (w : Word),
           exec (.sld o) s = .next ({ s with freeCtr := s.freeCtr + 3 }.land 4 [.k t 0xFFFF x, .s o.s.toNat w]))
       ∧ Gives (.brd o) s (s.landS 1 o.s (BitVec.ofNat 64 (a.bound t).toNat))
       ∧ Gives (.bwr o) s (touch (s.land 1 [.bnd t (if 0x7F800000 < low.toNat % 2 ^ 31 then 0x7F800000 else BitVec.ofNat 32 (low.toNat % 2 ^ 31))]))
       ∧ Gives (.bclr o) s (touch (s.land 1 [.bnd t 0]))
       ∧ (let bthr := s.csrSeen s.foc.core s.foc.ctx 0x20
          Gives (.bchk o) s (s.land 2 [.p (o.idx.toNat % 16) (bndPass a.acc (t - 8) bthr)])
          ∧ (bthr.getLsbD 25 = false → bndPass a.acc (t - 8) bthr = true))
       ∧ Gives (.sgrd o) s (s.landS 1 o.s (mget 0 (if o.idx.getLsbD 0 then a.sgs else a.sgp) (t - 8)))
       ∧ Gives (.sgclr o) s (s.land 1 [.sgz (t - 8)]))

/-! ### Memory accesses at their issue (chapters 13 and 14) -/

/-- R326, R329, R330, R334, R345, R351: a scalar load, a far load, a monitor arming or a tag read that the issue-time checks pass puts one
entry into the load queue, and its result, unless it goes to s0, waits for the data until its due cycle. -/
def Obligations.ScalarLoadIssue : Prop :=
  ∀ (s : State) (o : LOp) (ps : List Piece),
    let x := s.cx
    let w := laneBytes o.ty
    let far : Nat := [32, 48, 64, 96, 128, 192, 256, 384].getD o.fn.toNat 384
    let ea := s.S o.b + s.S o.x + o.disp
    let acq := if o.ord.getLsbD 0 then some o.scope else none
    let ctl := inCtl ps = true → w = 8 ∧ ea.toNat % 8 = 0
    let sent (lat : Nat) (kind : EKind) (acq : Option (BitVec 3)) : Ctx := { x with
      pend := if o.d = 0 then x.pend else
        x.pend ++ [⟨x.a.ctxtime.toNat + lat, x.seq, x.a.pc, s.foc.slot, x.a.rep.toNat, false, 0, []⟩]
      lq := x.lq ++ [s.mkEntry kind ps [] acq none] }
    (issueTr x s.foc.core ⟨true, false, false⟩ [⟨s.S o.b, ea, w, 0⟩] = .ok ps →
      (ctl → GivesCx (.ld o) s (sent 12 (.ld o.d.toNat w (o.ty < 4)) acq))
      ∧ (ctl → GivesCx (.ldfar o) s (sent far (.ld o.d.toNat w (o.ty < 4)) acq))
      ∧ (inCtl ps = false → ea.toNat % w = 0 → GivesCx (.monarm o) s (sent 12 (.monarm o.d.toNat w (o.ty < 4)) acq)))
    ∧ (issueTr x s.foc.core ⟨true, false, false⟩ [⟨s.S o.b, s.S o.b + o.disp, 1, 0⟩] = .ok ps →
      (∀ p ∈ ps, ∀ t, p.tr = some t → tagged t.pa = true) → GivesCx (.tagrd o) s (sent 12 (.tagrd o.d.toNat) none))

/-- R331, R332, R334: a vector load puts one load entry with a run of each active lane, or, of a contiguous load, one run of each group
of active lanes that follow one another; inactive lanes keep the register's value from before the bundle. With no active lane nothing is read, and the old
value lands. -/
def Obligations.VectorLoadIssue : Prop :=
  ∀ (s : State) (o : LOp) (ps : List Piece),
    let x := s.cx
    let w := laneBytes o.ty
    let act := s.lanesOn o
    let far : Nat := [32, 48, 64, 96, 128, 192, 256, 384].getD o.fn.toNat 384
    let at' (f : Nat → Word) : List Run1 := act.map fun i => ⟨s.S o.b, f i, w, w * i⟩
    let ea := s.S o.b + s.S o.x + o.disp
    let cont : List Run1 := (laneGroups act).map fun g => ⟨s.S o.b, ea + BitVec.ofNat 64 (w * g.1), w * g.2, w * g.1⟩
    let loads (i : Instr) (lat : Nat) (runs : List Run1) : Prop :=
      (act ≠ [] → issueTr x s.foc.core ⟨true, false, false⟩ runs = .ok ps → inCtl ps = false →
        GivesCx i s { x with
          pend := x.pend ++ [⟨x.a.ctxtime.toNat + lat, x.seq, x.a.pc, s.foc.slot, x.a.rep.toNat, false, 0, []⟩]
          lq := x.lq ++ [s.mkEntry (.vld o.d.toNat w (laneMask act) (s.V o.d)) ps [] none none] })
      ∧ (act = [] → Gives i s (s.land lat [.v o.d.toNat (s.V o.d)]))
    act = ((laneGroups act).flatMap fun g => List.range' g.1 g.2) ∧ (laneGroups act).Pairwise (fun g h => g.1 + g.2 < h.1)
    ∧ loads (.vld o) 12 cont ∧ loads (.vldfar o) far cont
    ∧ loads (.vlds o) 16 (at' fun i => s.S o.b + o.disp + BitVec.ofNat 64 i * s.S o.x)
    ∧ loads (.vgath o) 24 (at' fun i =>
        s.S o.b + o.disp + BitVec.ofInt 64 (laneInt o.ty (lane (tyW o.ty) (s.V (o.d + 1)) i) * laneBytes o.ty))

/-- R329 to R332, R343, R349, R350, R102: a plain store, a vector store, a berth send, a cache write-back or a tag write puts its
entries with its bytes into the pound, where they wait for the interval to retire; a release store goes to the store queue. Nothing is
written to memory. -/
def Obligations.StoreIssue : Prop :=
  ∀ (s : State) (o : LOp) (ps : List Piece),
    let x := s.cx
    let n := s.foc.core
    let w := laneBytes o.ty
    let act := s.lanesOn o
    let val := s.S (o.d.setWidth 6)
    let ea := s.S o.b + s.S o.x + o.disp
    let eb := s.S o.b + o.disp
    let at' (f : Nat → Word) : List Run1 := act.map fun i => ⟨s.S o.b, f i, w, w * i⟩
    let cont : List Run1 := (laneGroups act).map fun g => ⟨s.S o.b, ea + BitVec.ofNat 64 (w * g.1), w * g.2, w * g.1⟩
    let pound (es : List Entry) : Ctx := { x with pound := x.pound ++ es }
    let wr (runs : List Run1) : Prop := issueTr x n ⟨false, true, false⟩ runs = .ok ps
    (wr [⟨s.S o.b, ea, w, 0⟩] → (inCtl ps = true → w = 8 ∧ ea.toNat % 8 = 0) →
      (o.ord = 0 → GivesCx (.st o) s (pound [s.mkEntry .st ps (leBytes w val.toNat) none none]))
      ∧ (o.ord = 2 → GivesCx (.st o) s { x with sq := x.sq ++ [s.mkEntry .st ps (leBytes w val.toNat) none (some o.scope)] }))
    ∧ (let stores (i : Instr) (runs : List Run1) : Prop :=
        (act ≠ [] → wr runs → inCtl ps = false → GivesCx i s (pound [s.mkEntry .st ps (leBytes 64 (s.V o.d).toNat) none none]))
        ∧ (act = [] → Gives i s s)
       stores (.vst o) cont ∧ stores (.vsts o) (at' fun i => eb + BitVec.ofNat 64 i * s.S o.x)
       ∧ stores (.vscat o) (at' fun i => eb + BitVec.ofInt 64 (laneInt o.ty (lane (tyW o.ty) (s.V (o.d + 1)) i) * laneBytes o.ty)))
    ∧ (let len := (x.a.rdS (o.x.toNat + 2)).toNat
       0 < len → len ≤ 4096 → len % 8 = 0 → wr [⟨s.S o.b, eb, len, 0⟩] → eb.toNat % 8 = 0 → oneWindow eb ps = true →
        GivesCx (.berth o) s (pound [s.mkEntry (.berth (x.a.rdS o.x.toNat) (x.a.rdS (o.x.toNat + 1)) len) ps
          (((vrun o.d ((len + 63) / 64)).flatMap fun v => leBytes 64 (x.a.rdV v).toNat).take len) none none]))
    ∧ (issueTr x n ⟨true, false, false⟩ [⟨s.S o.b, ea, 1, 0⟩] = .ok ps → GivesCx (.cwb o) s (pound [s.mkEntry .cwb ps [] none none]))
    ∧ (wr ((List.range (o.fn.toNat + 1)).map fun i => ⟨s.S o.b, eb + BitVec.ofNat 64 (32 * i), 32, 32 * i⟩) → eb.toNat % 32 = 0 →
        (∀ p ∈ ps, ∀ t, p.tr = some t → tagged t.pa = true) →
        GivesCx (.tagset o) s (pound ((List.range (o.fn.toNat + 1)).map fun i => s.mkEntry (.tagset (val.extractLsb' 0 4))
          ((ps.filter fun p => p.off / 32 == i).map fun p => { p with off := p.off % 32 }) [] none none)))

/-- R336, R341, R344, R299 to R303, R104: an atomic, an arrival, an ownership transfer, a record's first trigger, a spawn, a launch and a
range request that the issue-time checks pass put one entry into the store queue; an atomic's old value and a range lie 24 cycles ahead.
R139: a later trigger of the record only marks both queues as a FENCE with release at package scope does. -/
def Obligations.IrrevocableIssue : Prop :=
  ∀ (s : State) (o : LOp) (ps qs : List Piece),
    let x := s.cx
    let n := s.foc.core
    let w := laneBytes o.ty
    let eb := s.S o.b + o.disp
    let val := s.S (o.d.setWidth 6)
    let acq := if o.ord.getLsbD 0 then some o.scope else none
    let rel := if o.ord.getLsbD 1 then some o.scope else none
    let at' (need : Need) (len : Nat) : Prop := issueTr x n need [⟨s.S o.b, eb, len, 0⟩] = .ok ps
    let sq (e : Entry) : Ctx := { x with sq := x.sq ++ [e] }
    let p24 : Pend := ⟨x.a.ctxtime.toNat + 24, x.seq, x.a.pc, s.foc.slot, x.a.rep.toNat, false, 0, []⟩
    let waits (no : Prop) [Decidable no] (e : Entry) : Ctx := { sq e with
      pend := if no then x.pend else x.pend ++ [p24]
      ckPend := if no then x.ckPend else x.ckPend ++ [p24] }
    (at' ⟨true, true, false⟩ w → eb.toNat % w = 0 → (∀ pa, firstPa ps = some pa → atomMeets pa o.fn o.ty = none) →
      GivesCx (.atom o) s (waits (o.d = 0) (s.mkEntry (.atom o.fn o.ty o.d.toNat (s.S o.x) val 0) ps [] acq rel)))
    ∧ (at' ⟨false, true, false⟩ 8 → ps.length = 1 → knownAll ps isBarrier = true →
      GivesCx (.arrive o) s (sq (s.mkEntry .arrive ps [] none (some 3))))
    ∧ (at' ⟨true, true, false⟩ 1 → anyIn ps (fun r => !(r == .hbm || r == .llc)) = false →
      GivesCx (.ownx o) s (sq (s.mkEntry (.ownx (val.extractLsb' 0 16)) ps [] none (some 3))))
    ∧ (s.hasTriggered n s.foc.ctx = false →
      GivesCx (.trigger o) s { sq (s.mkEntry .trigger [] [] none (some 3)) with triggered := true })
    ∧ (s.hasTriggered n s.foc.ctx = true → GivesCx (.trigger o) s { x with marks := x.marks ++ [⟨x.seq, false, false, true, 3⟩] })
    ∧ (at' ⟨true, false, false⟩ 64 → eb.toNat % 64 = 0 → anyIn ps (fun r => r != .hbm) = false →
      GivesCx (.spawn o) s (sq (s.mkEntry (.spawn (val.extractLsb' 0 12)) ps [] none (some 3))))
    ∧ (at' ⟨true, false, false⟩ 64 → eb.toNat % 64 = 0 → inCtl ps = false →
      issueTr x n ⟨false, true, false⟩ [⟨val, val, 1, 64⟩] = .ok qs → val.toNat % 64 = 0 → anyIn qs (fun r => r != .hbm) = false →
      GivesCx (.launch o) s (sq (s.mkEntry (.launch 0) (ps ++ qs) [] none (some 3))))
    ∧ (at' ⟨false, true, false⟩ 32 → eb.toNat % 32 = 0 → knownAll ps isRangeUnit = true →
      GivesCx (.gssnext o) s (waits (o.d = 0 ∧ o.x = 0) (s.mkEntry (.gssnext o.d.toNat o.x.toNat) ps [] none none)))

/-- R335, R342, R347 to R349: ordering marks go into both queues; waitp puts an acquire of the phase into the load queue; a MONWAIT whose
monitor is armed waits; a prefetch that translates nothing does nothing, else it is one load entry; the cache invalidations discard lines
of the core local cache that no early-visible store holds. -/
def Obligations.OrderWaitCacheIssue : Prop :=
  ∀ (s : State) (o : LOp) (ps : List Piece),
    let x := s.cx
    let n := s.foc.core
    let eb := s.S o.b + o.disp
    GivesCx (.qmark o) s { x with marks := x.marks ++ [⟨x.seq, true, false, false, 0⟩] }
    ∧ GivesCx (.fence o) s { x with marks := x.marks ++ [⟨x.seq, false, o.ord.getLsbD 0, o.ord.getLsbD 1, o.scope⟩] }
    ∧ (issueTr x n ⟨true, false, false⟩ [⟨s.S o.b, eb, 8, 0⟩] = .ok ps → ps.length = 1 → knownAll ps isBarrier = true →
      GivesCx (.waitp o) s { x with lq := x.lq ++ [s.mkEntry (.waitp ((s.S (o.d.setWidth 6)).getLsbD 0) (s.core n).cyc.toNat false
        (if x.inBody then 0 else (s.csrSeen n s.foc.ctx 0x23).toNat % 2 ^ 32)) ps [] (some 3) none] })
    ∧ (∀ l, x.mon = .armed l → GivesCx (.monwait o) s { x with
        monwait := some ⟨o.d.toNat, x.seq, (s.core n).cyc.toNat, (s.S o.x).toNat⟩
        pend := if o.d = 0 then x.pend else
          x.pend ++ [⟨x.a.ctxtime.toNat + 1, x.seq, x.a.pc, s.foc.slot, x.a.rep.toNat, false, 0, []⟩] })
    ∧ (let ea := s.S o.b + s.S o.x + o.disp
       let blk := if o.fn.getLsbD 2 then 256 else 64
       let va := ea.toNat % 2 ^ 48
       let lines := (List.range (blk / 64)).filterMap fun i =>
         (extRead x n (va / blk * blk + 64 * i) 64).map fun t => (⟨putFld ea 0 48 (va / blk * blk + 64 * i), 64, 64 * i, some t⟩ : Piece)
       (lines = [] ∨ nonCanonical (s.S o.b) ea = true → Gives (.pref o) s s)
       ∧ (lines ≠ [] → nonCanonical (s.S o.b) ea = false →
          GivesCx (.pref o) s { x with lq := x.lq ++ [s.mkEntry (.pref o.fn) lines [] none none] })
       ∧ ∀ t ctl, trExt x.ext x.lw n va 1 ⟨false, false, false⟩ = .hit t ctl → Gives (.cinv o) s (s.setCore n { s.core n with
          cache := (s.core n).cache.filter fun l => decide (l.1 / 4 ≠ t.pa / 256) || (s.heldLines n).contains l.1 }))
    ∧ Gives (.cinvAll o) s (s.setCore n { s.core n with cache := (s.core n).cache.filter fun l => (s.heldLines n).contains l.1 })

/-- R361 to R364, R360, R376, R393: a tile load is one load entry and a result due by the rows' size; a tile store or send puts its rows and
its sidecar into the pound; tcfg and trest are load entries; tsave puts its image into the store queue. A tst of count 0 does
nothing more than the check of the base and the stride, a tld of count 0 is an entry that reads nothing and has no result (R122). -/
def Obligations.TileMemoryIssue : Prop :=
  ∀ (s : State) (o : LOp) (ps : List Piece),
    let x := s.cx
    let n := s.foc.core
    let eb := s.S o.b + o.disp
    let sh := x.a.shapeOf o.tcode
    let c := min sh.rows (s.cnt o.vcnt)
    let chk := o.fn.getLsbD 0
    let img := sh.rows * sh.rlen
    let rb := x.a.storeRb o.tcode o.ty
    let k := min (x.a.rowsOf o.tcode) (s.cnt o.vcnt)
    let d := s.storeData o k chk
    let mc := o.fn.getLsbD 1
    let mask := x.a.rdM o.mreg.toNat &&& ~~~((1 : Word) <<< (n.toNat % 64))
    let cw := o.fn.getLsbD 2
    let r (i : Nat) : Word := x.a.rdS (o.x.toNat + i)
    let dt := s.storeData o k (chk && decide (k ≠ 0))
    let tld (ps : List Piece) : Entry := s.mkEntry (.tld o.tcode c sh.rows sh.rlen o.ty chk eb (s.stride o sh.rlen) false mc) ps []
      (if o.ord.getLsbD 0 then some o.scope else none) none
    (c = 0 → s.tileAddrBad o sh.rlen chk = none → GivesCx (.tld o) s { x with lq := x.lq ++ [tld []] })
    ∧ (c ≠ 0 → s.tileAddrBad o sh.rlen chk = none →
      issueTr x n ⟨true, false, false⟩ (s.rowRuns o c sh.rlen ++ if chk then [s.sideRun o img] else []) = .ok ps → inCtl ps = false →
      (mc = true → ∀ p ∈ ps, p.off < img → ∀ t, p.tr = some t → ownSpad n t.pa = true ∧ clusterForm x n p = false) →
      GivesCx (.tld o) s { x with
        pend := x.pend ++ [⟨x.a.ctxtime.toNat + (16 + (img + 127) / 128), x.seq, x.a.pc, s.foc.slot, x.a.rep.toNat, false, 0, []⟩]
        lq := x.lq ++ [tld ps]
        pound := if mc = true ∧ mask ≠ 0 then x.pound ++ [s.mkEntry (.mcast mask x.seq img) (mcastPieces n img ps) [] none none] else x.pound })
    ∧ (k = 0 → s.tileAddrBad o rb chk = none → Gives (.tst o) s s)
    ∧ (k ≠ 0 → s.tileAddrBad o rb chk = none →
      issueTr x n ⟨false, true, false⟩ (s.rowRuns o k rb ++ if chk then [s.sideRun o (k * rb)] else []) = .ok ps → inCtl ps = false →
      GivesCx (.tst o) s { x with pound := x.pound ++ [s.mkEntry (.tst d.2 (k * rb) rb) ps d.1 none none] })
    ∧ (s.tileAddrBad o rb (chk && decide (k ≠ 0)) = none →
      issueTr x n ⟨false, true, false⟩ (s.rowRuns o k rb ++ (if (chk && decide (k ≠ 0)) = true then [s.sideRun o (k * rb)] else [])
        ++ if cw then [⟨r 3, r 3, 8, dt.1.length⟩] else []) = .ok ps →
      (∀ p ∈ ps, ∀ t, p.tr = some t → regionOf t.pa ≠ .ctl ∧ regionOf t.pa ≠ .host
        ∧ (cw = true → p.off = dt.1.length → regionOf t.pa ≠ .peer) ∧ (mc = true → p.off < k * rb → regionOf t.pa = .spad)) →
      (cw = true → (r 3).toNat % 8 = 0) →
      (mc = true → s.stride o rb = BitVec.ofNat 64 rb ∧ eb.toNat % 8 = 0 ∧ 8 ≤ k * rb ∧ k * rb ≤ 4096 ∧ k * rb % 8 = 0
        ∧ oneWindow eb (ps.filter fun p => p.off < k * rb) = true) →
      GivesCx (.tsend o) s { x with pound := x.pound ++ [s.mkEntry (.tsend dt.2 (k * rb) rb (if mc then some (r 1, r 2) else none)
        (if cw then some dt.1.length else none)) ps (dt.1 ++ if cw then leBytes 8 0 else []) none none] })
    ∧ (issueTr x n ⟨true, false, false⟩ [⟨s.S o.b, eb, 64, 0⟩] = .ok ps → eb.toNat % 64 = 0 → inCtl ps = false →
      GivesCx (.tcfg o) s { x with lq := x.lq ++ [s.mkEntry .tcfg ps [] none none] })
    ∧ (issueTr x n ⟨true, false, false⟩ [⟨s.S o.b, eb, 70016, 0⟩] = .ok ps → eb.toNat % 64 = 0 → inCtl ps = false →
      GivesCx (.trest o) s { x with lq := x.lq ++ [s.mkEntry (.trest [] []) ps [] none none] })
    ∧ (let runs := (x.a.image.foldl (fun (p : List Run1 × Nat) q =>
        (p.1 ++ [⟨s.S o.b, eb + BitVec.ofNat 64 q.1, q.2.length, p.2⟩], p.2 + q.2.length)) ([], 0)).1
       issueTr x n ⟨false, true, false⟩ runs = .ok ps → eb.toNat % 64 = 0 → inCtl ps = false →
        GivesCx (.tsave o) s { x with sq := x.sq ++ [s.mkEntry .st ps (x.a.image.flatMap (·.2)) none none] })

/-- R400, R94, R326: an access of ld, st, vld or vst that the extents or the address form refuse at issue does not issue: the context holds a
violation whose TRAPCAUSE is the permission fault with its subcause and whose TRAPARG is the refused pointer, and no queue takes an entry. -/
def Obligations.RefusedAtIssue : Prop :=
  ∀ (s : State) (o : LOp) (sub : Nat) (ptr : Word) (pa : Nat), mwf .zero s.ctxs = true → sub < 16 →
    let x := s.cx
    let ea := s.S o.b + s.S o.x + o.disp
    let refused (i : Instr) (need : Need) (runs : List Run1) : Prop :=
      Ready i s → issueTr x s.foc.core need runs = .bad sub ptr pa → ∃ t, exec i s = .next t
        ∧ t.foc.trapped = true ∧ (t.ctx s.foc.core s.foc.ctx).run = .violation
        ∧ (t.ctx s.foc.core s.foc.ctx).a.traparg = ptr
        ∧ (t.ctx s.foc.core s.foc.ctx).a.trapcause.toNat % 2 ^ 20 = 0x80010 + 256 * sub
        ∧ (t.ctx s.foc.core s.foc.ctx).lq.length = x.lq.length
        ∧ (t.ctx s.foc.core s.foc.ctx).pound.length = x.pound.length ∧ (t.ctx s.foc.core s.foc.ctx).sq.length = x.sq.length
    let lanes : List Run1 := (laneGroups (s.lanesOn o)).map fun g =>
      ⟨s.S o.b, ea + BitVec.ofNat 64 (laneBytes o.ty * g.1), laneBytes o.ty * g.2, laneBytes o.ty * g.1⟩
    refused (.ld o) ⟨true, false, false⟩ [⟨s.S o.b, ea, laneBytes o.ty, 0⟩]
    ∧ refused (.st o) ⟨false, true, false⟩ [⟨s.S o.b, ea, laneBytes o.ty, 0⟩]
    ∧ refused (.vld o) ⟨true, false, false⟩ lanes ∧ refused (.vst o) ⟨false, true, false⟩ lanes

/-! ### The queues and the memory (chapters 04 and 05) -/

/-- R96, R100, R197: a load of HBM that nothing holds back and that its home accepts is performed: it leaves the load queue, and its
register's result has arrived with the bytes that memory holds (of a scalar load extended, of a vector load over the old lanes). Memory and
every other context are as before. RESULT_ARRIVAL performs the access that a result waits for. -/
def Obligations.LoadsPerform : Prop :=
  ∀ (s : State) (n : CoreN) (c : CtxN) (k : Nat) (e : Entry) (p : Piece) (t : Tr),
    let x := s.ctx n c
    x.marks = [] → x.dbg = false → x.lq[k]? = some e → e.reported = false → e.left = false → e.acq = none → e.got = [] → e.void = false →
    e.pieces = [p] → p.tr = some t → p.off = 0 → t.marked = false → regionOf t.pa = .hbm → t.pa % 64 + p.len ≤ 64 → mget 0 s.ecc (t.pa / 64) = 0 →
    (s.core n).cached t.pa = none → s.lineBusy n c e p = false → (∀ q ∈ x.rq ++ x.sq ++ x.pound, e.seq ≤ q.seq) → s.loadOrder n c e = true →
    s.homeCheck (x.actor n c) p t false = .ok →
    let bs := s.rdBytes t.pa p.len
    let done (i : Instr) (ws : List Write) : Prop := Answers i s fun u =>
      u.ctx n c = Ctx.arrive { x with lq := x.lq.filter (· ≠ e) } e.seq ws ∧ u.mem = s.mem ∧ u.cregs = s.cregs ∧ u.dies = s.dies
      ∧ SameBut s u n c
    (∀ d w sgn, e.kind = .ld d w sgn →
      done (.loadPerform n c k) (if d = 0 then [] else [.s d (extendBytes w sgn bs)])
      ∧ ((∀ q ∈ x.lq.take k, q.seq ≠ e.seq) →
        done (.resultArrival n c e.seq) (if d = 0 then [] else [.s d (extendBytes w sgn bs)])))
    ∧ ∀ d w act old, e.kind = .vld d w act old → done (.loadPerform n c k) [.v d (lanesOver w act old bs)]

/-- R96, R102, R115, R336: a store or an atomic on HBM that nothing holds back and that its home accepts is performed: a store's bytes
stand at its address; an atomic leaves its new value there and its old one has arrived; every other byte reads as before, the entry has left
the store queue, and no register of any context has changed. -/
def Obligations.StoresPerform : Prop :=
  ∀ (s : State) (n : CoreN) (c : CtxN) (k : Nat) (e : Entry) (p : Piece) (t : Tr),
    let x := s.ctx n c
    mwf .zero s.ctxs = true → x.marks = [] → x.dbg = false → x.sq[k]? = some e → e.park = none → e.unmon = false → e.acq = none →
    e.pieces = [p] → p.tr = some t → p.off = 0 → t.marked = false → regionOf t.pa = .hbm → t.pa % 64 + p.len ≤ 64 →
    mget 0 s.ecc (t.pa / 64) = 0 → s.poisoned t.pa = false → (s.core n).cached t.pa = none →
    (∀ q ∈ x.sq.take k, q.left = true) → (∀ q ∈ x.sq, q.isOf e = true → q = e) →
    (e.left = true ∨ (e.left = false ∧ s.mayLeave n c e = true)) →
    let v := if e.left then s else s.sendOut n c e
    let f : Entry := if e.left then e else { e with left := true, sent := (s.core n).sent }
    v.mayPerform n c f = true → s.homeCheck (x.actor n c) p t true = .ok →
    let rest (u : State) : Prop := MemOutside s u t.pa p.len ∧ (∀ q ∈ (u.ctx n c).sq, q.isOf e = false) ∧ u.cregs = s.cregs
      ∧ ∀ m d, (u.ctx m d).a = (s.ctx m d).a
    (e.kind = .st → p.len = e.data.length → Answers (.storePerform n c k 0) s fun u => u.rdBytes t.pa p.len = e.data ∧ rest u)
    ∧ ∀ op ty d v cmp tries, e.kind = .atom op ty d v cmp tries → Answers (.atomicPerform n c k .ok) s fun u =>
        leNat (u.rdBytes t.pa p.len) = atomNew op ty (leNat (s.rdBytes t.pa p.len)) v.toNat cmp.toNat % 2 ^ (8 * p.len)
        ∧ (u.ctx n c).pend = (x.arrive e.seq (if d = 0 then [] else
            [.s d (extendBytes p.len (ty < 4) (s.rdBytes t.pa p.len))])).pend
        ∧ rest u

/-- R342: a WAITP at its barrier completes as an acquire when the phase has left the one it waits for, and else waits in the list; one that
finds the list full may be sent again 256 core cycles later.
R203: CYCLES core cycles after its issue it suspends its record, with SREASON 2 and RCOND 1 on the barrier; where the phase has left the
awaited one by then, it completes without a suspension, as an acquire, and if older accesses still hold it back it waits for them with no limit
left. R347: a MONWAIT whose limit has
passed delivers 0 and disarms the monitor. -/
def Obligations.WaitsAndTimeouts : Prop :=
  ∀ (s : State) (e : Entry) (k : Nat) (p : Piece) (t : Tr) (q : Bool) (start cyc : Nat),
    let n := s.foc.core
    let x := s.cx
    let w := s.creg t.pa
    (x.waitpEntry = some (e, k) → x.lq[k]? = some e → e.pieces = [p] → p.tr = some t → e.reported = false →
      (∀ l, e.kind = .waitp q start l cyc → l = false → x.marks = [] → e.left = false → x.held = false →
        e.retryAt ≤ (s.core n).cyc.toNat → s.poisoned t.pa = false →
        isBarrier t.pa = true → barAdmits w t.pa n = true → s.loadOrder n s.foc.ctx e = true →
        (w.getLsbD 48 ≠ q → exec .waitpRetry s = .next ((s.setCx { x with lq := x.lq.filter (· ≠ e) }).discardCache n))
        ∧ (w.getLsbD 48 = q → s.listed (homeDie t.pa) < 4096 →
          exec .waitpRetry s = .next (s.setCx (x.onEntry e fun f => { f with kind := .waitp q start true cyc })))
        ∧ (w.getLsbD 48 = q → 4096 ≤ s.listed (homeDie t.pa) →
          exec .waitpRetry s = .next (s.setCx (x.onEntry e fun f => { f with retryAt := (s.core n).cyc.toNat + 256 }))))
      ∧ (∀ l, e.kind = .waitp q start l cyc → x.run = .live → cyc ≠ 0 → start + cyc ≤ (s.core n).cyc.toNat →
        (barAdmits w t.pa n = true → w.getLsbD 48 ≠ q →
          (s.loadOrder n s.foc.ctx e = true →
            exec .waitpTimeout s = .next ((s.setCx { x with lq := x.lq.filter (· ≠ e) }).discardCache n))
          ∧ (s.loadOrder n s.foc.ctx e = false →
            exec .waitpTimeout s = .next (s.setCx (x.onEntry e fun f => { f with kind := .waitp q start l 0 }))))
        ∧ (barAdmits w t.pa n = false ∨ w.getLsbD 48 = q → Answers .waitpTimeout s fun u => u.cx.run = .ending 1 ∧ u.cx.a = { x.a with ev := x.a.acc } ∧ u.mem = s.mem ∧ SameBut s u n s.foc.ctx
          ∧ (u.cx.w 0).extractLsb' 56 8 = 0x21 ∧ (u.cx.w 6).extractLsb' 32 32 = (if q then 1 else 0)
          ∧ (u.cx.w 7).extractLsb' 0 52 = BitVec.ofNat 52 t.pa)))
    ∧ ∀ m, x.monwait = some m → m.limit ≠ 0 → m.start + m.limit ≤ (s.core n).cyc.toNat →
        exec .monwaitTimeout s = .next (s.setCx { x.arrive m.seq (if m.d = 0 then [] else [.s m.d 0]) with mon := .off, monwait := none })

/-- R211, R407, R195: a residency whose queues have drained ends: its slot is vacant, and the distributor's event queue, where it has room
for two words and the core holds none back, takes the CHECKPOINTS and the ENDED word. A pre-empted one has first written its save area and
its record, a suspended one its record, and what its reads of FIFO banks had taken since its checkpoint is there again (R52); a killed or
refused one, and one that retires after a TRIGGER, writes nothing.
R406: 256 core cycles after the mark of a near-full pound or undo log, the context at its next bundle holds a commit-overflow stop
(code 0x0C), named for the bundle, where no earlier stage of R400 stops it; its results due have landed, and its other registers are as
before. That the step is also taken ahead of the core cycle is the model's choice (log entry 1), that the CHECKPOINTS word carries the number of
checkpoints not yet reported in ARG is its reading (log entry 85: R211 names no ARG for it), and so is that what was staged for the context
goes with it (log entry 108). -/
def Obligations.EndingsAndOverflow : Prop :=
  (∀ (s : State) (r : Nat),
     let n := s.foc.core
     let x := s.cx
     let d := n.toNat / 256
     let ev (code arg : Nat) : Word :=
       BitVec.ofNat 64 (code * 2 ^ 60 + s.foc.ctx.toNat * 2 ^ 58 + n.toNat % 64 * 2 ^ 52 + n.toNat / 64 % 4 * 2 ^ 50 + arg)
     x.run = .ending r → s.mayEnd n s.foc.ctx r = true → x.dbg = false → x.ckCount < 256 → x.killCnt < 2 ^ 16 → r < 8 →
     let v := s.setCore n (((s.core n).fifoUndo s.foc.ctx).unbind s.foc.ctx)
     let ended (u : State) : Prop := u.cx = { Ctx.zero with resno := x.resno }
       ∧ ((s.core n).evts = [] → (s.die d).evt.length ≤ 4094 →
         (u.die d).evt = (s.die d).evt ++ [ev 4 x.ckCount, ev 3 (r + 16 * x.killCnt + 2 ^ 20 * x.resno.toNat)])
     (Answers .residencyEnd s fun u => u.ctx n s.foc.ctx = { Ctx.zero with resno := x.resno })
     ∧ (r = 2 ∨ r = 3 ∨ r = 7 → Answers .residencyEnd s fun u => ended u
       ∧ u.mem = ((v.putImage x.savepa (x.saveImage (x.preq = some 0))).unitPut x.rpa (x.backRec true)).mem)
     ∧ (r = 0 ∨ r = 1 → Answers .residencyEnd s fun u => ended u ∧ u.mem = (v.unitPut x.rpa (x.backRec false)).mem)
     ∧ (r = 5 ∨ r = 6 ∨ (r = 4 ∧ s.hasTriggered n s.foc.ctx = true) → Answers .residencyEnd s fun u => ended u ∧ u.mem = s.mem))
  ∧ (∀ (s : State) (t0 : Nat) (p : Plan),
       let n := s.foc.core
       let x := s.cx
       let y := x.landDue
       let t := s.setCx y
       let z := { y with npc := p.next, inBody := p.pos.isSome }
       let ops := p.ops.map (·.2)
       x.canIssue = true → x.opened = false → x.taken = 0 → x.overflowed = false → y.implAt = some t0 → t0 + 256 ≤ (s.core n).cyc.toNat →
       x.dbg = false → t.plan n s.foc.ctx = .ok p → (x.a.rep ≠ 0 ∨ y.haltReq = false ∧ y.stepDue = false) → p.bad = none →
       (∀ q ∈ p.ops, tileFault y.a q.2 = none) → z.overflow n (p.ckpt z) ops = none →
       Answers .commitOverflow s fun u => u.cx.run = .stopped ∧ u.cx.overflowed = true ∧ u.mem = s.mem ∧ SameBut s u n s.foc.ctx
         ∧ u.cx.a = { y.a with
             trapcause := 0x4000C ||| (if 480 ≤ y.undo.length then 0x100 else 0) ||| (if y.a.ctxmode.getLsbD 0 then 0x100000 else 0)
             trappc := y.a.pc &&& 0xFFFFFFFFFFFC
             trapslot := 7
             donemask := 0
             traparg := 0 })

/-! ### Banks, berths and control space (chapters 01, 02, 03, 07) -/

/-- R53, R51: a bank whose switch has drained takes the mode of REQ, BUSY clears, its 32 KiB read zero, no line of them is poisoned, and no
other byte of memory changes;
a context's write of BANKMODEn begins such a switch, or is a violation of subcause 5. A push that has waited enters its FIFO bank when an
entry is free and no older store of its sender holds it back (R93), and its store is over.
R63, R66, R67: the oldest message for a core, of a sender that waits for nothing, is written where its banks are scratchpads that are not
being switched and no line of it is poisoned, and enters the berth queue while that holds fewer than eight; the oldest arrival starts the lowest dormant context at the
handler, with s1 to s4 the offset, the length, the argument and the sender, its other scalar registers as they were, and no trap state. -/
def Obligations.BankAndBerthSteps : Prop :=
  (∀ (s : State) (n : CoreN) (c : CtxN) (b : BitVec 4) (v : Word),
     let k := s.core n
     let i := b.toNat
     let w := mget 0 k.bankmode i
     let x := s.ctx n c
     let q := mget Fifo.zero k.fifo i
     let base := 0x20000000000 + n.toNat * 0x80000 + i * 0x8000
     (w.getLsbD 7 = true → (∀ d : CtxN, s.bankDue n i d = false) → q.waiting = [] → (bankMode k i = 1 → s.heldLines n = []) →
       Answers (.bankSwitchComplete n b) s fun u =>
         (mget 0 (u.core n).bankmode i).extractLsb' 0 2 = w.extractLsb' 2 2 ∧ (mget 0 (u.core n).bankmode i).getLsbD 7 = false
         ∧ (∀ a, base ≤ a ∧ a < base + 0x8000 → u.rdByte a = 0 ∧ u.poisoned a = false) ∧ MemOutside s u base 0x8000 ∧ u.ctxs = s.ctxs ∧ u.cregs = s.cregs)
     ∧ (x.resident = true → k.bankOwned c i = true →
         exec (.bankmodeSwitch n c b v) s = .next (s.bankWrite n i v (v &&& 0x40)))
     ∧ (x.resident = true → k.bankOwned c i = false → x.held = false → mwf .zero s.ctxs = true → k.evts = [] →
         (s.die (n.toNat / 256)).evt.length < 4096 → Answers (.bankmodeSwitch n c b v) s fun u => (u.ctx n c).run = .violation ∧ u.cores = s.cores
           ∧ (u.ctx n c).a.trapcause.extractLsb' 0 20 = 0x80510)
     ∧ ∀ (m : CoreN) (d : CtxN) (seq : Nat) (bs : List Byte) (l : List (Nat × Nat × List Byte)),
         q.waiting = (4 * m.toNat + d.toNat, seq, bs) :: l → q.q.length < fifoCap k i → (∀ h, (s.ctx m d).sqHold = some h → seq < h) →
         Answers (.fifoPushAccept n b) s fun u =>
           u.core n = { k with fifo := mset Fifo.zero k.fifo i { q with q := q.q ++ [bs], waiting := l } } ∧ u.mem = s.mem
           ∧ SameBut s u m d ∧ (u.ctx m d).a = (s.ctx m d).a
           ∧ ∀ e ∈ (u.ctx m d).sq ++ (u.ctx m d).rq, ¬(e.seq = seq ∧ e.away = true ∧ e.kind = .st))
  ∧ (∀ (s : State) (m : Berth) (l : List Berth) (c : CtxN),
       let n := s.foc.core
       let k := s.core n
       let pa := 0x20000000000 + n.toNat * 0x80000 + m.off
       (k.inbox = m :: l → m.src = none → k.berthq.length < 8 →
         (∀ b < 16, bankBusy k b = false ∧ bankMode k b = 0) → m.off + m.bytes.length ≤ 0x80000 →
         (∀ b < m.bytes.length, s.poisoned (pa + b) = false) → Answers .berthArrival s fun u =>
           u.rdBytes pa m.bytes.length = m.bytes ∧ MemOutside s u pa m.bytes.length
           ∧ (u.core n).inbox = l ∧ (u.core n).berthq = k.berthq ++ [m])
       ∧ (k.berthq = m :: l → s.ecc = [] → (s.ctx n c).run = .dormant → (∀ d : CtxN, d < c → (s.ctx n d).run ≠ .dormant) →
         Answers .berthStart s fun u => (u.core n).berthq = l ∧ u.mem = s.mem ∧ SameBut s u n c
           ∧ (u.ctx n c).run = .live ∧ (u.ctx n c).a.pc = m.hdl ∧ (u.ctx n c).a.rdS 1 = BitVec.ofNat 64 m.off
           ∧ (u.ctx n c).a.rdS 2 = BitVec.ofNat 64 m.bytes.length ∧ (u.ctx n c).a.rdS 3 = m.arg ∧ (u.ctx n c).a.rdS 4 = m.sender
           ∧ (∀ r, 4 < r → (u.ctx n c).a.rdS r = (s.ctx n c).a.rdS r) ∧ (u.ctx n c).a.vr = (s.ctx n c).a.vr
           ∧ (u.ctx n c).a.acc = (s.ctx n c).a.acc ∧ (u.ctx n c).a.ctxmode = 0 ∧ (u.ctx n c).a.trapvec = 0))

/-- Writes of single registers: each leaves its register's new value and changes nothing else but what its rule says. FAULTTAIL and VIOLTAIL
clear the overflow bits (R32, R94); PWRCAP is held between 1500 and 4000 (R432); MODID is written until its lock bit is set (R432);
ECCCTL.CLR clears the counts (R82); a word 0 of an ownership entry is ignored while its STATE is 01, a word 1 whose STATE is not 01
releases it, and one with STATE 01 replaces its owner or claims a free entry, if the entry's page is memory homed on the die that no other
entry covers (R91); a plain register of the map (the rings' bases and sizes, LEASETO, LEASELEN, DISTIMG, a core's scores and clean count, the
words of a range unit, a core's counters and their selects) takes its writable fields. -/
def Obligations.RegisterWrites : Prop :=
  ∀ (s : State) (d : DieN) (i : BitVec 16) (j : SillN) (v : Word) (n : CoreN),
    let at' (off : Nat) : Nat := 0x7FFFF00000000 + d.toNat * 0x10000000 + off
    let top (off : Nat) : Nat := 0x7FFFF00000000 + off
    let sill (off : Nat) : Nat := 0x7FFFF80000000 + j.toNat * 0x8000000 + off
    let core (off : Nat) : Nat := 0x7FFFF00000000 + n.toNat / 256 * 0x10000000 + 0x200000 + 0x40 * (n.toNat % 256) + off
    exec (.faulttailWrite d v) s
        = .next ((s.setCreg (at' 0x100020) (v &&& 0xFFFFF)).setCreg (at' 0x100008) (s.creg (at' 0x100008) &&& ~~~2))
    ∧ exec (.violtailWrite d v) s
        = .next ((s.setCreg (at' 0x100040) (v &&& 0xFFFFF)).setCreg (at' 0x100048) (s.creg (at' 0x100048) &&& ~~~1))
    ∧ (∀ p, p = max 1500 (min 4000 (v.toNat % 2 ^ 16)) →
        exec (.pwrcapWrite v) s = .next (s.setCreg (top 0x700010) (BitVec.ofNat 64 p)))
    ∧ ((s.creg (top 0x700000)).getLsbD 8 = false → exec (.modidWrite v) s = .next (s.setCreg (top 0x700000) (v &&& 0x1FF)))
    ∧ ((s.creg (top 0x700000)).getLsbD 8 = true → exec (.modidWrite v) s = .next s)
    ∧ (v.getLsbD 1 = true → exec (.eccCountClear j v) s
        = .next ((s.setCreg (sill 0x2000) (v &&& 1)).setCreg (sill 0x2008) (s.creg (sill 0x2008) &&& 1)))
    ∧ (v.getLsbD 1 = false → exec (.eccCountClear j v) s = .next (s.setCreg (sill 0x2000) (v &&& 1)))
    ∧ (let r0 := at' (0x8000000 + 16 * i.toNat)
       let r1 := at' (0x8000000 + 16 * i.toNat + 8)
       ((s.creg r1).extractLsb' 0 2 ≠ 1 → exec (.ownershipWord0Write d i v) s = .next (s.setCreg r0 (v &&& 0xFFFFFFFFFF003)))
       ∧ ((s.creg r1).extractLsb' 0 2 = 1 → exec (.ownershipWord0Write d i v) s = .next s)
       ∧ (v.extractLsb' 0 2 ≠ 1 → exec (.ownershipWord1Write d i v) s = .next (s.setCreg r1 (s.creg r1 &&& ~~~3)))
       ∧ (let b := ownBase (s.creg r0)
          let free : Prop := (s.creg r0).extractLsb' 0 2 ≠ 3 ∧ (regionOf b = .hbm ∨ regionOf b = .llc) ∧ homeDie b = d.toNat
            ∧ ∀ e ∈ s.ownOver b (ownSize (s.creg r0)), e = r0
          (s.creg r1).extractLsb' 0 2 ≠ 1 → ¬free → v.extractLsb' 0 2 = 1 → exec (.ownershipWord1Write d i v) s = .next s)
       ∧ (let b := ownBase (s.creg r0)
          let free : Prop := (s.creg r0).extractLsb' 0 2 ≠ 3 ∧ (regionOf b = .hbm ∨ regionOf b = .llc) ∧ homeDie b = d.toNat
            ∧ ∀ e ∈ s.ownOver b (ownSize (s.creg r0)), e = r0
          (s.creg r1).extractLsb' 0 2 = 1 ∨ free → v.extractLsb' 0 2 = 1 → ∃ w : Word,
          exec (.ownershipWord1Write d i v) s = .next (s.setCreg r1 w) ∧ w.extractLsb' 0 2 = 1
          ∧ w.extractLsb' 32 16 = v.extractLsb' 32 16 ∧ w.extractLsb' 16 16 = (s.creg r1).extractLsb' 32 16
          ∧ w.extractLsb' 48 16 = (s.creg r1).extractLsb' 48 16 + 1))
    ∧ (v.getLsbD 0 = false → exec (.verifctlWrite n v) s
        = .next (s.setCreg (core 0) (v &&& 0xFF0002)))
    ∧ ((s.creg (core 0)).getLsbD 0 = false → v.getLsbD 0 = true → Answers (.verifctlWrite n v) s fun u =>
        (u.creg (core 0)).getLsbD 0 = true ∧ u.mem = s.mem)
    ∧ ∀ m : Master, (∀ g : DieN, m = .hart g → (s.die g.toNat).outbox = []) →
        let plain (off : Nat) (rw : Word) : Prop :=
          exec (.registerWrite m (BitVec.ofNat 52 (at' off)) v) s = .next (s.setCreg (at' off) (v &&& rw))
        plain 0x100010 0xFFFFFFFFFF00F ∧ plain 0x100030 0xFFFFFFFFFF00F ∧ plain 0x300020 0xFFFFFFFFFF00F ∧ plain 0x100028 0xFFFFFFFF
        ∧ plain 0x100060 0xFFFFFFFFF000 ∧ plain 0x300008 0xFFFFFFFFFF000
        ∧ (∀ k < 256, plain (0x200008 + 0x40 * k) 0xFFFF ∧ plain (0x200010 + 0x40 * k) 0xFFFFFFFFFFFFFFFF
          ∧ plain (0x580040 + 0x80 * k) 0xFFFFFFFF
          ∧ ∀ j < 4, plain (0x580000 + 0x80 * k + 8 * j) 0x1FFF ∧ plain (0x580020 + 0x80 * k + 8 * j) 0xFFFFFFFFFFFFFFFF)
        ∧ ∀ u < 64, plain (0x320000 + 32 * u) 0xFFFFFFFFFFFFFFFF ∧ plain (0x320008 + 32 * u) 0xFFFFFFFFFFFFFFFF
          ∧ plain (0x320010 + 32 * u) 0xFFFF ∧ plain (0x320018 + 32 * u) 0xFFFFFFFF

/-- R339, R342: a store of a barrier object leaves its value with the reserved bits 0, and 0 where a valid object breaks a rule; the waiting
requests are then answered. R61: a change of the window's ways makes the lines taken or given back read zero, and sets BUSY until it is done.
R116: an arrival adds one to the barrier's COUNT; when that makes EXPECTED the count returns to 0 and PHASE flips. Then the waiting
requests are answered. -/
def Obligations.BarriersAndWindow : Prop :=
  (∀ (s : State) (d : DieN) (i : BitVec 16) (j : SillN) (v : Word),
     let pa := 0x7FFFF00000000 + d.toNat * 0x10000000 + 0x6000000 + 8 * i.toNat
     let m : Word := v &&& 0x17DFFFF0000FFFF
     let r := 0x7FFFF80000000 + j.toNat * 0x8000000 + 0x1000
     let old := (s.creg r).toNat % 16
     let w := v.toNat % 16
     let b := 0x10000000000 + j.toNat * 0x10000000
     (v.getLsbD 56 = false → exec (.barrierObjectWrite d i v) s = .next ((s.setCreg pa m).answerBarrier pa))
     ∧ (v.getLsbD 56 = true → v = m → (v.extractLsb' 50 3 = 1 ∨ v.extractLsb' 50 3 = 2 ∨ v.extractLsb' 50 3 = 3) →
         v.extractLsb' 32 16 ≠ 0 → exec (.barrierObjectWrite d i v) s = .next ((s.setCreg pa v).answerBarrier pa))
     ∧ (v.getLsbD 56 = true → v ≠ m ∨ v.extractLsb' 50 3 = 0 ∨ 3 < v.extractLsb' 50 3 ∨ v.extractLsb' 32 16 = 0 →
         exec (.barrierObjectWrite d i v) s = .next ((s.setCreg pa 0).answerBarrier pa))
     ∧ ((s.creg r).getLsbD 7 = false → w ≤ 8 → old ≤ 8 → w ≠ old → Answers (.llcwinResize j v) s fun u =>
         u.creg r = BitVec.ofNat 64 (w + 128) ∧ u.ctxs = s.ctxs
         ∧ (∀ a, b + min w old * 0x1000000 ≤ a ∧ a < b + max w old * 0x1000000 → u.rdByte a = 0)
         ∧ ∀ a, ¬(b + min w old * 0x1000000 ≤ a ∧ a < b + max w old * 0x1000000) → u.rdByte a = s.rdByte a)
     ∧ Answers (.llcwinResizeDone j) s fun u => u.creg r = s.creg r &&& ~~~0x80 ∧ u.mem = s.mem ∧ u.ctxs = s.ctxs)
  ∧ (∀ (s : State) (e : Entry) (k : Nat) (p : Piece) (t : Tr),
       let n := s.foc.core
       let c := s.foc.ctx
       let x := s.cx
       let w := s.creg t.pa
       ((x.sq.zipIdx).find? fun p => p.1.kind == .arrive) = some (e, k) → x.sq[k]? = some e → e.kind = .arrive → x.marks = [] →
       e.pieces = [p] → p.tr = some t → t.marked = false → isBarrier t.pa = true → barAdmits w t.pa n = true → s.poisoned t.pa = false →
       populated s (n.toNat / 256) t.pa = true → (∀ q ∈ x.sq.take k, q.left = true) → (∀ q ∈ x.sq, q.isOf e = true → q = e) →
       (e.left = true ∨ (e.left = false ∧ s.mayLeave n c e = true)) →
       let v := if e.left then s else s.sendOut n c e
       let f : Entry := if e.left then e else { e with left := true, sent := (s.core n).sent }
       v.mayPerform n c f = true →
       ∃ w' : Word, exec .barrierArrivalApply s = .next (((v.dropStore n c f).setCreg t.pa w').answerBarrier t.pa)
         ∧ (w.extractLsb' 0 16 + 1 = w.extractLsb' 32 16 → w'.extractLsb' 0 16 = 0 ∧ w'.getLsbD 48 = !w.getLsbD 48)
         ∧ (w.extractLsb' 0 16 + 1 ≠ w.extractLsb' 32 16 →
           w'.extractLsb' 0 16 = w.extractLsb' 0 16 + 1 ∧ w'.getLsbD 48 = w.getLsbD 48)
         ∧ w'.extractLsb' 16 32 = w.extractLsb' 16 32 ∧ w'.extractLsb' 49 15 = w.extractLsb' 49 15)

/-- R34, R39: a lease check while none is in progress notes its range and sets BUSY, and BUSY clears at once where no live lease overlaps
it; each holder of one that does is on its way out where REVOKE is asked for; one asked for while BUSY, or of no length, sets ERR. A holder whose revoke is LEASETO old is forced: its context goes back to its
checkpoint and leaves with reason 3. -/
def Obligations.LeaseSteps : Prop :=
  ∀ (s : State) (d : DieN) (base : BitVec 40),
    let st := 0x7FFFF00000000 + d.toNat * 0x10000000 + 0x100058
    let len := (s.creg (0x7FFFF00000000 + d.toNat * 0x10000000 + 0x100060)).toNat / 4096 % 2 ^ 36 * 4096
    let b := base.toNat * 4096
    let leased : Prop := (s.die d.toNat).leases.any (fun l => l.over b len) = true
    ((s.creg st).getLsbD 0 = true ∨ len = 0 →
      exec (.leaseCheckWait d base) s = .next (s.setCreg st (s.creg st ||| 2))
      ∧ exec (.leaseCheckRevoke d base) s = .next (s.setCreg st (s.creg st ||| 2)))
    ∧ ((s.creg st).getLsbD 0 = false → len ≠ 0 → leased →
      exec (.leaseCheckWait d base) s
        = .next ((s.setDie d.toNat { s.die d.toNat with check := some (b, len, false) }).setCreg st (s.creg st ||| 1)))
    ∧ ((s.creg st).getLsbD 0 = false → len ≠ 0 → leased →
      Answers (.leaseCheckRevoke d base) s fun u => (u.die d.toNat).check = some (b, len, true)
        ∧ ∀ l ∈ (s.die d.toNat).leases, l.over b len = true → ∀ h ∈ l.holders, ∃ r ∈ (u.die d.toNat).revokes, r.1 = h)
    ∧ ((s.creg st).getLsbD 0 = false → len ≠ 0 → ¬leased → (∀ kv ∈ s.dies, kv.2.unasked = []) →
      (Answers (.leaseCheckWait d base) s fun u => u.creg st = s.creg st ∧ (u.die d.toNat).check = none ∧ u.ctxs = s.ctxs ∧ u.mem = s.mem)
      ∧ Answers (.leaseCheckRevoke d base) s fun u => u.creg st = s.creg st ∧ (u.die d.toNat).check = none ∧ u.ctxs = s.ctxs
          ∧ u.mem = s.mem)
    ∧ ∀ (x : Ctx) (r : Nat × Nat), x = s.cx → x.run = .live → x.dispute = none → x.forceReq = false → r ∈ (s.die d.toNat).revokes → r.1 = x.rpa →
        r.2 + (s.creg (0x7FFFF00000000 + d.toNat * 0x10000000 + 0x100028)).toNat % 2 ^ 32 ≤ s.dieNow d.toNat → mwf .zero s.ctxs = true →
        Answers .leasetoExpiry s fun u => u.cx.run = .ending 3 ∧ u.cx.a = { x.ck with donemask := 0 }

/-! ### Engines, residencies and dispatch (chapters 05, 09, 13, 16) -/

/-- R352, R353, R355, R7, R20: CETAIL moved forward submits its descriptors, with the writer as their issuer, and IDLE is 0; a write
that moves it back, or past what the ring holds, is ignored. CESTAT.STOPPED is cleared by the host and by the die's harts alone; SKIP while
stopped ends the descriptor with STATUS 4 and HEAD moves on. A write by address of control space is the write of the register there. R207: a
write of a die's hart, to a die at whose full mailbox an earlier one of its own die waits, waits behind that (log entry 74). -/
def Obligations.EngineAndMapWrites : Prop :=
  ∀ (s : State) (e : EngineN) (w : Master) (v : Word) (d : DieN) (i : BitVec 16),
    let base := 0x7FFFF00000000 + e.toNat / 16 * 0x10000000 + 0x600000 + 0x40 * (e.toNat % 16)
    let size := 2 ^ ((s.creg base).toNat % 16 + 4)
    let h := (s.creg (base + 8)).toNat % 2 ^ 20
    let old := ((s.creg (base + 16)).toNat % 2 ^ 20 + size - h) % size
    let t := v.toNat % 2 ^ 20
    let new := (t + size - h) % size
    let st := s.creg (base + 24)
    let at' (off : Nat) : Nat := 0x7FFFF00000000 + d.toNat * 0x10000000 + off
    let reg (off : Nat) (u : State) : Prop := exec (.registerWrite w (BitVec.ofNat 52 (at' off)) v) s = .next u
    (∀ g : DieN, ∀ q < 512, (s.die g.toNat).outbox.any (fun o => o.1 = d.toNat) = true →
      exec (.registerWrite (.hart g) (BitVec.ofNat 52 (at' (0x310000 + 8 * q))) v) s = .next (s.setDie g.toNat { s.die g.toNat with
        outbox := (s.die g.toNat).outbox ++ [(d.toNat, at' (0x310000 + 8 * q), v)] }))
    ∧ ((∀ g : DieN, w = .hart g → (s.die g.toNat).outbox = []) → (t < size → old < new →
      (let sub (i : Issuer) (w : Master) : Prop := Answers (.cetailWrite e w v) s fun u =>
          (u.engine e.toNat).issuers = (s.engine e.toNat).issuers ++ (List.range (new - old)).map (fun j => ((h + old + j) % size, i))
          ∧ u.creg (base + 16) = BitVec.ofNat 64 t ∧ (u.creg (base + 24)).getLsbD 7 = false ∧ u.mem = s.mem ∧ u.ctxs = s.ctxs
       (∀ r, sub (.super true) (.host r)) ∧ (∀ g : DieN, (s.die g.toNat).outbox = [] → sub (.super false) (.hart g))
       ∧ ∀ n c, sub (.ctx n.toNat c.toNat (s.ctx n c).seq (s.ctx n c).asid (s.ctx n c).ptroot (s.ctx n c).ownid (s.ctx n c).guard
          (s.ctx n c).dbg) (.ctx n c)))
    ∧ (size ≤ t ∨ new ≤ old → exec (.cetailWrite e w v) s = .next s)
    ∧ (ceMaster e.toNat w = true → exec (.cestatResume e w) s = .next (s.setCreg (base + 24) (st &&& ~~~0xFF40)))
    ∧ (ceMaster e.toNat w = false → exec (.cestatResume e w) s = .next s ∧ exec (.cestatSkip e w) s = .next s)
    ∧ (ceMaster e.toNat w = true → st.getLsbD 6 = true → (s.ceDesc e.toNat).at 6 = 0 → Answers (.cestatSkip e w) s fun u =>
        u.creg (base + 8) = BitVec.ofNat 64 ((h + 1) % size) ∧ (u.creg (base + 24)).extractLsb' 0 4 = 4
        ∧ (u.creg (base + 24)).getLsbD 6 = false ∧ u.mem = s.mem ∧ (u.engine e.toNat).fin = none)
    ∧ (∀ q < 512, reg (0x310000 + 8 * q) (s.setCreg (at' (0x310000 + 8 * q)) (v &&& 0xFFFFFFFFFFF03)))
    ∧ reg 0x100028 (s.setCreg (at' 0x100028) (v &&& 0xFFFFFFFF))
    ∧ exec (.registerWrite w (BitVec.ofNat 52 (at' 0x100020)) v) s = exec (.faulttailWrite d v) s
    ∧ exec (.registerWrite w (BitVec.ofNat 52 (at' (0x6000000 + 8 * i.toNat))) v) s = exec (.barrierObjectWrite d i v) s)

/-- R211: a command that names its residency acts on it: PRE-EMPT asks for the pre-emption, which a dormant context has at once, and one that a
stop holds on its way out needs no more; FORCE
takes a context back to its checkpoint and out, a held one when it is resumed; KILL drops its pound, its loads but those that a released
multicast waits for, and its replay entries that have not left, which it counts, and lets its store queue and those that have left drain; RESUME lets a held context go on from where
it was, with its accesses sent afresh. A command that names another residency is answered with STALE, where the event queue has room. SLOTS and BANKS give the core's table and its bank assignment. That a killed context keeps the
loads which a released multicast waits for, and that an access the stop has left unreported is sent afresh, is the model's reading (log
entry 16). -/
def Obligations.ResidencyCommands : Prop :=
  ∀ (s : State) (n : CoreN) (c : CtxN) (r : BitVec 16) (arg : PAddr),
    let x := s.ctx n c
    let named := x.resident = true ∧ x.resno = r
    let ev (code : Nat) : Word :=
      BitVec.ofNat 64 (code * 2 ^ 60 + c.toNat * 2 ^ 58 + n.toNat % 64 * 2 ^ 52 + n.toNat / 64 % 4 * 2 ^ 50)
    let d := n.toNat / 256
    let stale := s.setDie d { s.die d with evt := (s.die d).evt ++ [ev 7] }
    (¬named → (s.core n).evts = [] → (s.die d).evt.length < 4096 →
      exec (.preEmpt n c r) s = .next stale ∧ exec (.force n c r) s = .next stale ∧ exec (.kill n c r) s = .next stale
      ∧ exec (.resume n c r) s = .next stale)
    ∧ (named → x.run = .live ∨ x.run = .waiting ∨ (x.held = true ∧ ∀ q, x.prior ≠ .ending q) →
        exec (.preEmpt n c r) s = .next (s.setCtx n c { x with preq := some 2 }))
    ∧ (∀ q, named → x.held = true → x.prior = .ending q → exec (.preEmpt n c r) s = .next s)
    ∧ (named → x.run = .dormant → exec (.preEmpt n c r) s = .next (s.setCtx n c { x with run := .ending 2, preq := some 0 }))
    ∧ (named → x.run = .dormant → exec (.force n c r) s = .next (s.setCtx n c { x with run := .ending 3, preq := some 0 }))
    ∧ (named → x.held = true → exec (.force n c r) s = .next (s.setCtx n c { x with forceReq := true }))
    ∧ (named → x.run = .live → x.dispute = none → x.dbg = false → Answers (.force n c r) s fun u =>
        (u.ctx n c).run = .ending 3 ∧ (u.ctx n c).a = { x.ck with donemask := 0 } ∧ (u.ctx n c).pend = x.ckPend
        ∧ (u.ctx n c).sq = x.sq ∧ (u.ctx n c).rq = x.rq ∧ (u.ctx n c).pound = [] ∧ u.mem = s.mem ∧ SameBut s u n c)
    ∧ (named → x.dbg = false → Answers (.kill n c r) s fun u =>
        (u.ctx n c).run = .ending 5 ∧ (u.ctx n c).pound = [] ∧ (u.ctx n c).lq = x.lq.filter x.feeds
        ∧ (u.ctx n c).rq = x.rq.filter (·.left) ∧ (u.ctx n c).sq = x.sq.map Entry.again
        ∧ (u.ctx n c).killCnt = x.killCnt + (((x.rq.filter fun e => !e.left).map (·.seq)).eraseDups).length ∧ u.mem = s.mem ∧ SameBut s u n c)
    ∧ (named → x.held = true → x.rollReq = false → x.forceReq = false → (∀ e ∈ x.lq, e.reported = false) → (s.core n).berthq = [] →
      (x.prior = .live → (∀ e ∈ x.lq ++ x.pound ++ x.sq, e.park = none) ∧ x.fpark = none) →
      (x.prior = .waiting → ∃ e ∈ x.lq ++ x.pound ++ x.sq, e.park.isSome) → (x.prior = .dormant → x.preq = none) →
      Answers (.resume n c r) s fun u => (u.ctx n c).run = x.prior ∧ (u.ctx n c).a = x.a ∧ (u.ctx n c).sqHold = none
        ∧ (∀ e ∈ (u.ctx n c).sq ++ (u.ctx n c).rq, e.reported = false) ∧ u.mem = s.mem ∧ SameBut s u n c)
    ∧ (∃ w : Word, exec (.slots n arg) s = .next (s.setCore n { s.core n with slottab := w })
        ∧ ∀ i < 16, w.extractLsb' (4 * i) 3 = BitVec.ofNat 3 (arg.toNat / 2 ^ (3 * i)) ∧ w.getLsbD (4 * i + 3) = false)
    ∧ exec (.banks n arg) s = .next (s.setCore n { s.core n with bankassign := BitVec.ofNat 64 (arg.toNat % 2 ^ 48) })

/-- R211, R193, R26: DISPATCH to a free slot with room is answered with ACCEPTED and the new residency number, and the context starts at
BADDR with s5 to s7 the argument, the task number and the record's address, and every other register 0; a table that breaks a rule ends
the residency at once with reason 6. A slot that is taken or a core without room answers NOROOM. The answers enter an event queue that
has room for them.
R408 to R410, R461: a record with SREASON 3 starts with the state of its save area (its scalar, predicate, mask and vector registers, CTXTIME
and TRAPARG from their offsets, BADDR as its pc), the results of the pending log in flight, dormant where the save area says so; stated where no
tile has to be read again from its origin. One with SREASON 4 starts dormant, with the registers of a first start. The record and its
tables are read from lines that are sound (no bad symbols, no poison). That the registers which R193 does not name start at 0 is the model's
choice (log entry 3). -/
def Obligations.DispatchStarts : Prop :=
  ∀ (s : State) (n : CoreN) (c : CtxN) (pa : PAddr),
    let x := s.ctx n c
    let d := n.toNat / 256
    let rpa := pa.toNat / 64 * 64
    let recd := s.readRec rpa
    let w (i : Nat) : Word := s.rd64 (rpa + 8 * i)
    let xt := (w 2).toNat / 64 % 2 ^ 46 * 64
    let ev (code arg : Nat) : Word :=
      BitVec.ofNat 64 (code * 2 ^ 60 + c.toNat * 2 ^ 58 + n.toNat % 64 * 2 ^ 52 + n.toNat / 64 % 4 * 2 ^ 50 + arg)
    let free := x.resident = false ∧ s.room n c { Ctx.zero with recd := recd } = true
    let first (a : Arch) (sr : SMap Word) : Prop := a = { Arch.zero with pc := w 0 &&& 0xFFFFFFFFFFFF, sr := sr }
      ∧ ∀ r, a.rdS r = if r = 5 then w 1 else if r = 6 then BitVec.ofNat 64 ((w 4).toNat / 2 ^ 32) else if r = 7 then BitVec.ofNat 64 rpa else 0
    s.ecc = [] → s.poison = [] → (s.core n).evts = [] → (s.die d).evt.length ≤ 4093 →
    (¬free → exec (.dispatch n c pa) s = .next (s.setDie d { s.die d with evt := (s.die d).evt ++ [ev 2 0] }))
    ∧ (free → (s.loadTable xt).isSome = true → (w 0).extractLsb' 60 4 < 3 → Answers (.dispatch n c pa) s fun u =>
        (u.die d).evt = (s.die d).evt ++ [ev 1 (x.resno + 1).toNat] ∧ (u.ctx n c).run = .live ∧ (u.ctx n c).resno = x.resno + 1
        ∧ first (u.ctx n c).a (u.ctx n c).a.sr ∧ u.mem = s.mem ∧ SameBut s u n c)
    ∧ (free → (s.loadTable xt).isSome = true → (w 0).extractLsb' 60 4 = 4 → (s.core n).berthq = [] → Answers (.dispatch n c pa) s fun u =>
        (u.die d).evt = (s.die d).evt ++ [ev 1 (x.resno + 1).toNat] ∧ (u.ctx n c).run = .dormant ∧ (u.ctx n c).resno = x.resno + 1
        ∧ first (u.ctx n c).a (u.ctx n c).a.sr ∧ u.mem = s.mem ∧ SameBut s u n c)
    ∧ (let sp := (w 3).toNat / 4096 % 2 ^ 40 * 4096
       let pc : Word := w 0 &&& 0xFFFFFFFFFFFF
       let vunits := (w 6).toNat % 32
       let b := s.readArch sp vunits pc
       free → (s.loadTable xt).isSome = true → (w 0).extractLsb' 60 4 = 3 → (s.core n).berthq = [] → b.loads = [] →
        Answers (.dispatch n c pa) s fun u =>
        let y := u.ctx n c
        (u.die d).evt = (s.die d).evt ++ [ev 1 (x.resno + 1).toNat] ∧ y.resno = x.resno + 1
        ∧ y.run = (if (s.rd64 sp).getLsbD 16 then .dormant else .live) ∧ y.pend = s.readPend sp pc b.ctxtime ∧ y.a = b.withPend y.pend
        ∧ (∀ r < 64, y.a.rdS r = if r = 0 then 0 else s.rd64 (sp + 0x100 + 8 * r))
        ∧ (∀ r < 16, y.a.rdP r = decide (r = 0 ∨ (s.rd64 (sp + 0x300)).getLsbD r = true))
        ∧ (∀ r < 8, y.a.rdM r = s.rd64 (sp + 0x308 + 8 * r))
        ∧ (∀ r < 64 * vunits, y.a.rdV r = BitVec.ofNat 512 (leNat (s.rdBytes (sp + 0x1000 + 64 * r) 64)))
        ∧ y.a.pc = pc ∧ y.a.ctxtime = s.rd64 (sp + 0x460) ∧ y.a.traparg = s.rd64 (sp + 0x448)
        ∧ u.mem = s.mem ∧ SameBut s u n c)
    ∧ (free → s.loadTable xt = none → Answers (.dispatch n c pa) s fun u => (u.ctx n c).run = .vacant
        ∧ (u.die d).evt = (s.die d).evt ++ [ev 1 (x.resno + 1).toNat, ev 4 0, ev 3 (6 + 2 ^ 20 * (x.resno + 1).toNat)]
        ∧ u.mem = s.mem ∧ SameBut s u n c)

/-- R354, R355, R57, R76, R34: an engine's descriptor of the supervisor with no completion word, on idle lines of HBM that are reachable,
sound and not owned by its own checks, is performed: COPY of one line leaves the source's bytes at the destination; COPYSC of one image of
one 64-byte row whose sidecar is present and matches copies the image and its sidecar; MIGRATE of one page from HBM to host memory, over
which no lease is live, moves its bytes and saves the tags and histories of its granules in the 256 bytes of its tag-save area; MCAST of
one line writes it at the offset of every target's scratchpad. HEAD moves on and STATUS is 0; every other byte reads as before. The COPYSC
forms are those whose attempts that differ are fewer than four. Which of a granule's two tag-save bytes holds its tag and which its histories,
and that no tile sidecar but those in the source range moves with a page, is the model's choice (log entry 63). -/
def Obligations.EnginesPerform : Prop :=
  ∀ (s : State) (e : EngineN),
    let k := e.toNat
    let base := 0x7FFFF00000000 + k / 16 * 0x10000000 + 0x600000 + 0x40 * (k % 16)
    let h := (s.creg (base + 8)).toNat % 2 ^ 20
    let size := 2 ^ ((s.creg base).toNat % 16 + 4)
    let d := s.ceDesc k
    let desc := (s.creg base).toNat / 4096 % 2 ^ 40 * 4096 + 64 * h
    let src := (d.at 1).toNat
    let dst := (d.at 2).toNat
    let i := s.ceIssuer k
    let line (pa : Nat) : Prop := regionOf pa = .hbm ∧ pa % 64 = 0 ∧ s.poisoned pa = false ∧ mget 0 s.ecc (pa / 64) = 0
      ∧ populated s (k / 16) pa = true
    let next (u : State) : Prop := u.creg (base + 8) = BitVec.ofNat 64 ((h + 1) % size)
      ∧ (u.creg (base + 24)).extractLsb' 0 4 = 0 ∧ ∀ m c, (u.ctx m c).a = (s.ctx m c).a
    let ready (op : Nat) : Prop := s.ceRuns k = true ∧ (s.engine k).fin = none ∧ (∃ b, i = .super b) ∧ d.op = op ∧ d.bad i = false
      ∧ d.at 6 = 0 ∧ d.phys = true ∧ s.ceBytes k = 0 ∧ line desc ∧ mwf .zero s.ctxs = true
    (ready 1 → d.count = 64 → line src → line dst → dst ≠ desc → Answers (.copy e) s fun u =>
      u.rdBytes dst 64 = s.rdBytes src 64 ∧ MemOutside s u dst 64 ∧ next u)
    ∧ (let sa := (d.at 5).toNat
       let sb := (d.at 7).toNat
       let w1 := s.rd64 (sa + 8)
       ready 2 → d.count = 1 → d.rows = 1 → d.rlen = 64 → line src → line dst → line (sa / 64 * 64) → line (sb / 64 * 64) →
        sa % 16 = 0 → sb % 16 = 0 → src / 64 ≠ dst / 64 → sb / 64 ≠ dst / 64 → sb / 64 ≠ src / 64 → sa / 64 ≠ dst / 64 → dst ≠ desc → sb / 64 * 64 ≠ desc →
        w1.getLsbD 63 = true → memFold 64 (s.rdBytes src 64) = s.rd64 sa → (s.engine k).images = 0 → (s.engine k).out = none →
        ∀ bad < 4, Answers (.copysc e bad) s fun u =>
          u.rdBytes dst 64 = s.rdBytes src 64 ∧ u.rdBytes sb 16 = s.rdBytes sa 16
          ∧ (∀ a, ¬(dst ≤ a ∧ a < dst + 64) → ¬(sb ≤ a ∧ a < sb + 16) → u.rdByte a = s.rdByte a) ∧ next u)
    ∧ (ready 3 → d.count = 4096 → (∀ j < 64, line (src + 64 * j)) → regionOf dst = .host → (∀ t < 8, s.leased t src 4096 = false) →
        (∀ j < 64, s.poisoned (dst + 64 * j) = false ∧ populated s (k / 16) (dst + 64 * j) = true) →
        let tag := (d.at 5).toNat
        (tag + 256 ≤ src ∨ src + 4096 ≤ tag) → (tag + 256 ≤ desc ∨ desc + 64 ≤ tag) →
        (∀ j < 256, regionOf (tag + j) = .hbm ∧ s.poisoned (tag + j) = false ∧ mget 0 s.ecc ((tag + j) / 64) = 0
          ∧ populated s (k / 16) (tag + j) = true) →
        Answers (.migrate e) s fun u => (∀ j < 4096, u.rdByte (dst + j) = s.rdByte (src + j)) ∧ next u
          ∧ (∀ j < 64, u.rdBytes (tag + 4 * j) 4
              = leBytes 2 (s.granOf (src + 64 * j)).toNat ++ leBytes 2 (s.granOf (src + 64 * j + 32)).toNat)
          ∧ ∀ a, ¬(dst ≤ a ∧ a < dst + 4096) → ¬(tag ≤ a ∧ a < tag + 256) → u.rdByte a = s.rdByte a)
    ∧ (ready 4 → d.count = 64 → line src → dst % 64 = 0 →
        (∀ j < 64, (d.at 5).getLsbD j = true → bankMode (s.core (coreNo (64 * (k / 4) + j))) (dst / 0x8000) = 0
          ∧ bankBusy (s.core (coreNo (64 * (k / 4) + j))) (dst / 0x8000) = false) →
        Answers (.mcast e) s fun u => next u
          ∧ (∀ j < 64, (d.at 5).getLsbD j = true →
            u.rdBytes (0x20000000000 + (64 * (k / 4) + j) * 0x80000 + dst) 64 = s.rdBytes src 64)
          ∧ ∀ a, (∀ j < 64, (d.at 5).getLsbD j = true → ¬(0x20000000000 + (64 * (k / 4) + j) * 0x80000 + dst ≤ a
              ∧ a < 0x20000000000 + (64 * (k / 4) + j) * 0x80000 + dst + 64)) → u.rdByte a = s.rdByte a)

/-! ### The work distributor (chapter 09) -/

/-- R207, R211, R92: a die's own hart pops the oldest event word and takes the oldest mailbox word to act on (stated where no core holds an
event back and no write of a hart waits); a context that reads either port holds a violation of subcause 6. An ACCEPTED event puts its offer among
the placed records with its residency number; a mailbox word that was read is acted on and gone: PLACE of a record that is in no group of
that die dispatches it to the core it left or to a core of the die that has room, and is answered with NOROOM where there is none; PLACED
and NOROOM move the sender's hold on the record to its placed records or back to its ready set without that die; PRE-EMPT, FORCE and KILL
act as the commands of R211 on the residency; and ENDED takes the record off the placed ones, ready again after a pre-emption. What a hart
reads comes into a register of one of its die's four harts, 0 from an empty queue; which one is the microcode's, and free here, and the words
read wait in their order to be acted on (log entry 74). That a die
which has acted on a PLACE keeps the placement for the serving die to read is the model's (log entry 29). -/
def Obligations.DistributorMail : Prop :=
  ∀ (s : State) (d src : DieN) (r : PAddr) (arg : BitVec 6) (v : Word) (n : CoreN) (c : CtxN),
    let k := s.die d.toNat
    let rpa := r.toNat / 64 * 64
    let sd := src.toNat
    let word (op : Nat) : Word := BitVec.ofNat 64 (op * 2 ^ 60 + sd * 2 ^ 57 + r.toNat / 64 * 64 + arg.toNat)
    let read := s.setDie d.toNat { k with mread := k.mread.drop 1 }
    let taken (i : Instr) (v : Word) (die : SMap Hart → Die) : Prop := Answers i s fun u => ∃ hs, u.die d.toNat = die hs
      ∧ (∀ e ≠ d.toNat, u.die e = s.die e) ∧ u.mem = s.mem ∧ u.cregs = s.cregs ∧ u.ctxs = s.ctxs
      ∧ ∃ i r, i < 4 ∧ 0 < r ∧ r < 32 ∧ mget 0 (mget Hart.zero hs i).x r = v
    let heard (op : Nat) : Prop := k.mread.head? = some (word op) ∧ s.hartsFree d.toNat = true
    let left (h : Held) : Option Nat := read.firstCore (read.recCtx rpa) h sd
    let alone (h : Held) : Prop := heard 1 ∧ s.ecc = [] ∧ s.poison = [] ∧ read.heldAt sd rpa = some h ∧ k.answered.contains rpa = false
      ∧ (read.mates (read.die sd).remote h).length < 2
    let placed (h : Held) (m : Nat) (e : CtxN) : Prop := Answers (.mboxPlace d src r arg) s fun u => (u.die d.toNat).mread = k.mread.drop 1
      ∧ ∃ p ∈ (u.die d.toNat).offers, p.held = h ∧ p.n = m ∧ p.c = e.toNat
    (s.hartsRun d.toNat = true → (∀ kv ∈ s.cores, kv.1 / 256 = d.toNat → kv.2.evts = []) → (∀ kv ∈ s.dies, kv.2.unasked = [] ∧ kv.2.outbox = []) → ∀ t,
      (k.evt = v :: t → v.extractLsb' 60 4 = 1 → ∀ p : Placed, k.offers = [p] → p.held.q / 512 = d.toNat →
        p.n = 256 * d.toNat + (v.extractLsb' 50 2).toNat * 64 + (v.extractLsb' 52 6).toNat → p.c = (v.extractLsb' 58 2).toNat →
        Answers (.disteventRead d (.hart d)) s fun u => (u.die d.toNat).evt = t ∧ (u.die d.toNat).offers = []
          ∧ ∃ q ∈ (u.die d.toNat).placed, q.held.rpa = p.held.rpa ∧ q.n = p.n ∧ q.c = p.c ∧ q.resno = v.toNat % 2 ^ 16)
      ∧ (k.evt = v :: t → (v.extractLsb' 60 4 = 0 ∨ 7 ≤ v.extractLsb' 60 4) →
        taken (.disteventRead d (.hart d)) v fun hs => { k with evt := t, harts := hs })
      ∧ (k.evt = [] → taken (.disteventRead d (.hart d)) 0 fun hs => { k with harts := hs })
      ∧ (k.mbox = v :: t → v.extractLsb' 60 4 ≤ 7 → taken (.distmboxrdRead d (.hart d)) v fun hs => { k with
        mbox := t, mread := k.mread ++ [v &&& ~~~0x1F0000000000000], harts := hs })
      ∧ (k.mbox = [] → taken (.distmboxrdRead d (.hart d)) 0 fun hs => { k with harts := hs }))
    ∧ ((s.ctx n c).resident = true → (s.ctx n c).held = false → mwf .zero s.ctxs = true →
      ∀ i ∈ [Instr.disteventRead d (.ctx n c), .distmboxrdRead d (.ctx n c)], Answers i s fun u =>
        (u.ctx n c).run = .violation ∧ (u.ctx n c).a.trapcause.extractLsb' 0 20 = 0x80610)
    ∧ (∀ h, alone h →
        (∀ m e, left h = none → read.pickOn (read.recCtx rpa) d.toNat h.clus = some (m, e) → placed h m.toNat e)
        ∧ (∀ m e, left h = some m → m / 256 = d.toNat → m < 2048 → read.freeSlot (coreNo m) (read.recCtx rpa) = some e → placed h m e)
        ∧ (left h = none → read.pickOn (read.recCtx rpa) d.toNat h.clus = none →
          exec (.mboxPlace d src r arg) s = .next (read.mail d.toNat sd 3 rpa 0)))
    ∧ (heard 2 → ∀ h p, s.heldAt d.toNat rpa = some h → (read.die sd).guests.find? (fun p => p.held.rpa = rpa) = some p →
        Answers (.mboxPlaced d src r arg) s fun u => h ∉ (u.die d.toNat).remote
          ∧ ∃ q ∈ (u.die d.toNat).placed, q.held.rpa = rpa ∧ q.n = p.n ∧ q.c = p.c ∧ q.resno = p.resno)
    ∧ (heard 3 → ∀ h, s.heldAt d.toNat rpa = some h → Answers (.mboxNoroom d src r arg) s fun u =>
        h ∉ (u.die d.toNat).remote ∧ ∃ g ∈ (u.die d.toNat).ready, g.rpa = rpa ∧ g.remote = none
          ∧ g.tried = h.tried ++ [match read.firstCore (read.recCtx rpa) h d.toNat with
              | some m => if m / 256 = sd then 8 else sd
              | none => sd])
    ∧ (∀ p : Placed, (k.guests ++ k.placed).find? (fun p => decide (p.held.rpa = rpa) && p.gone.isNone) = some p → p.n / 256 = d.toNat →
        (heard 4 → ∃ u, exec (.mboxPreempt d src r arg) s = .next u
          ∧ exec (.preEmpt (coreNo p.n) (ctxNo p.c) (BitVec.ofNat 16 p.resno)) read = .next u)
        ∧ (heard 5 → ∃ u, exec (.mboxForce d src r arg) s = .next u
          ∧ exec (.force (coreNo p.n) (ctxNo p.c) (BitVec.ofNat 16 p.resno)) read = .next u)
        ∧ (heard 6 → ∃ u, exec (.mboxKill d src r arg) s = .next u
          ∧ exec (.kill (coreNo p.n) (ctxNo p.c) (BitVec.ofNat 16 p.resno)) read = .next u))
    ∧ (heard 7 → ∀ p q : Placed, k.placed.find? (fun p => p.held.rpa = rpa) = some p →
        (s.die sd).guests.find? (fun p => p.held.rpa = rpa) = some q → arg.toNat % 16 = 2 →
        (s.die (p.held.q / 512)).resets.contains p.held.q = false → Answers (.mboxEnded d src r arg) s fun u => p ∉ (u.die d.toNat).placed ∧ ∃ h ∈ (u.die d.toNat).ready, h.rpa = rpa)

/-- R214, R192, R208: a queue's wake takes the ring's entry at HEAD: it is zeroed, HEAD moves on, and the record is ready when it has
no condition. A waiting record whose condition holds becomes ready at its wake; a phase watch that found the list full is placed, 256 core
cycles later as R342 has it for a WAITP, and waits as long again where the list is full still. A line without a monitor is read by the sweep
and acted on as a wake. The lines read are sound. -/
def Obligations.DistributorWakes : Prop :=
  ∀ (s : State) (q : BitVec 12) (d : DieN) (r : PAddr) (h : Held),
    let cb := s.qcb q.toNat
    let head := (s.rd64 (cb + 64)).toNat
    let slot := (s.rd64 (cb + 72)).toNat / 4096 % 2 ^ 40 * 4096 + 8 * (head % 2 ^ ((s.rd64 (cb + 72)).toNat % 32 + 4))
    let e := s.rd64 slot
    let rpa := e.toNat / 64 % 2 ^ 46 * 64
    let qd := q.toNat / 512
    (s.ecc = [] → s.poison = [] → s.hartsGo qd = true → (s.die qd).resets.contains q.toNat = false → (s.qtab q.toNat).getLsbD 0 = true → (s.rd64 (cb + 8)).extractLsb' 0 2 = 1 →
      (s.rd64 (cb + 88)).extractLsb' 0 2 = 1 → (s.rd64 cb).toNat = head + 1 → e.getLsbD 0 = true → e.extractLsb' 1 5 = 0 →
      e.extractLsb' 52 12 = 0 → (slot + 8 ≤ cb ∨ cb + 256 ≤ slot) → (rpa + 64 ≤ cb ∨ cb + 256 ≤ rpa) →
      (rpa + 64 ≤ slot ∨ slot + 8 ≤ rpa) → s.recBad rpa = false → (s.rd64 rpa).extractLsb' 56 4 = 0 →
      Answers (.queueWake q) s fun u => u.rd64 (cb + 64) = BitVec.ofNat 64 (head + 1) ∧ u.rd64 slot = 0
        ∧ ∃ g ∈ (u.die qd).ready, g.rpa = rpa ∧ g.q = q.toNat)
    ∧ (s.ecc = [] → s.poison = [] → s.hartsFree d.toNat = true → (s.die d.toNat).waitl.find? (fun g => g.rpa = r.toNat) = some h → s.rcondMet h.rpa = true →
      ((s.rd64 h.rpa).extractLsb' 56 4 = 1 → (s.creg ((s.rd64 (h.rpa + 56)).toNat % 2 ^ 52)).getLsbD 56 = true) →
      Answers (.rcondWake d r) s fun u => h ∉ (u.die d.toNat).waitl ∧ (∃ g ∈ (u.die d.toNat).ready, g.rpa = r.toNat ∧ g.q = h.q)
        ∧ u.mem = s.mem ∧ u.ctxs = s.ctxs)
    ∧ (let pa := (s.rd64 (h.rpa + 56)).toNat % 2 ^ 52
       let put (g : Held) : Prop :=
         exec (.phaseWatchRetry d r) s = .next (s.setDie d.toNat { s.die d.toNat with waitl := [g] })
       s.ecc = [] → s.poison = [] → s.hartsFree d.toNat = true → (s.die d.toNat).waitl = [h] → h.rpa = r.toNat → h.watch = false →
        (s.rd64 h.rpa).extractLsb' 56 4 = 1 → (s.creg pa).getLsbD 56 = true → (s.creg pa).getLsbD 48 = (s.rd64 (h.rpa + 48)).getLsbD 32 →
        (h.retryAt ≤ s.dieNow d.toNat → s.listed (homeDie pa) < 4096 → put { h with watch := true })
        ∧ (h.retryAt ≤ s.dieNow d.toNat → 4096 ≤ s.listed (homeDie pa) → put { h with retryAt := s.dieNow d.toNat + 256 })
        ∧ (s.dieNow d.toNat < h.retryAt → exec (.phaseWatchRetry d r) s = .next s))
    ∧ (let n := dieOf s.foc.core
       let t := s.rearm n
       (∀ rpa < 2 ^ 52, (t.die n).polls = [.rec' rpa] → ∃ u, exec .pollSweep s = .next u
         ∧ exec (.rcondWake (BitVec.ofNat 3 n) (BitVec.ofNat 52 rpa)) t = .next u)
       ∧ ∀ (q : BitVec 12), q.toNat / 512 = n → (t.die n).polls = [.queue q.toNat] → ∃ u, exec .pollSweep s = .next u
         ∧ exec (.queueWake q) t = .next u)

/-- R216, R217: the best ready record, of no group, leaves the ready set and is offered: one that has not run, where the dies' order begins
with its own, to a core there that has room; one that was pre-empted, to the core it left where that is eligible and has room.
R226: a launch that waited on an exclusive graph starts when no instance of its header runs. R229: the watchdog asks for
a pre-emption at W, forces one grace later, and kills after the second. R210: a distributor that waits for no answer quiesces by writing
what it holds to the hold area, refusals that wait for the log among it; while QUIESCED, on a die that is ready (R433), LOAD of an image that is judged sound is accepted with its SVN,
of another sets ERR; RUN starts the harts, which take back what the hold area holds; on a die that is not ready neither does so. R232: DLOGTAIL
is the tail of the log. The lines read are sound. The order of the checks of an image, and that a LOAD or RUN on a die that is not ready has no
effect, are the model's choice (log entry 66), and so are that a start clears QUIESCE (log entry 35), that a first dispatch is one of the same
record address and TASKID (log entry 71), and that the watchdog acts on a residency from its PLACED on (log entry 78). -/
def Obligations.DistributorWork : Prop :=
  ∀ (s : State) (v : Word) (g : DieN) (m : Master),
    let n := s.foc.core
    let c := s.foc.ctx
    let x := s.cx
    let d := n.toNat / 256
    let k := s.die d
    let at' (d off : Nat) : Nat := 0x7FFFF00000000 + d * 0x10000000 + off
    let ctl := s.creg (at' d 0x300000)
    let gctl := s.creg (at' g.toNat 0x300000)
    let kg := s.die g.toNat
    let gst := s.creg (at' g.toNat 0x300010)
    (∀ h, s.ecc = [] → s.poison = [] → s.hartsGo d = true → s.canLog d = true → k.asking d = false → s.best d = some h → s.recBad h.rpa = false →
      h.wd < 4 → h.inst = none → h.clus = none → h.tried = [] →
      let y := s.recCtx h.rpa
      let offered (m : Nat) (e : CtxN) : Prop := Answers .recordOffer s fun u => h ∉ (u.die d).ready
        ∧ ∃ p ∈ (u.die d).offers, p.held = h ∧ p.n = m ∧ p.c = e.toNat
      (∀ m e, (s.rd64 h.rpa).extractLsb' 60 4 = 0 → (s.dieOrder y d).head? = some d → s.pickOn y d none = some (m, e) → offered m.toNat e)
      ∧ ∀ m e, (∀ q ∈ k.firstDbg, q.1 ≠ (h.rpa, (s.rd64 (h.rpa + 32)).toNat / 2 ^ 32)) → s.leftCore y d = some m → m / 256 = d →
        m < 2048 → s.freeSlot (coreNo m) y = some e → offered m e)
    ∧ (∀ i, (k.insts.find? fun i => i.pending && !s.running i.hdr) = some i → s.canLog d = true → s.hartsGo d = true →
      exec .launchRelease s = .next ((s.setDie d { k with insts := k.insts.erase i }).startLaunch d i))
    ∧ (∀ p : Placed, s.watched n c = some p → p ∈ (s.die d).placed → p.held.q / 512 = d → p.n = n.toNat → p.c = c.toNat → x.run = .live →
      x.dispute = none → x.resno = BitVec.ofNat 16 p.resno → s.hartsGo d = true → s.canLog d = true → mwf .zero s.ctxs = true →
      let w := mget 0 (s.die d).qcfg p.held.q
      let due (graces : Nat) : Prop := (w.extractLsb' 16 16).toNat ≠ 0
        ∧ 1024 * (w.extractLsb' 16 16).toNat + graces * (1024 * max 1 (w.extractLsb' 0 16).toNat) ≤ x.wdCnt
      (p.stage = 0 → due 0 → Answers .watchdogPreempt s fun u => u.cx.preq = some 2 ∧ u.cx.run = .live ∧ u.cx.a = x.a
        ∧ { p with stage := 1, ckAt := x.ckSeq } ∈ (u.die d).placed)
      ∧ (p.stage = 1 → p.ckAt = x.ckSeq → due 1 → Answers .watchdogForce s fun u => u.cx.run = .ending 3 ∧ u.cx.a = { x.ck with donemask := 0 }
        ∧ { p with stage := 2, ckAt := x.ckSeq } ∈ (u.die d).placed)
      ∧ (p.stage = 2 → due 2 → Answers .watchdogKill s fun u => u.cx.run = .ending 5
        ∧ { p with stage := 3, killWhy := 3, ckAt := x.ckSeq } ∈ (u.die d).placed))
    ∧ (ctl.getLsbD 1 = true → s.hartsRun d = true → k.asking d = false → exec .distQuiesced s = .next ((s.setDie d { k with
        holdArea := k.holdArea ++ k.ready.map (fun h => (.ready, h)) ++ k.waitl.map (fun h => (.waits, h))
          ++ k.refq.map fun h => (.refused h.2, h.1)
        ready := []
        waitl := []
        refq := [] }).setCreg (at' d 0x300000) (ctl ||| 4)))
    ∧ (ctl.getLsbD 2 = true → k.accepted = true → s.dieUp d = true → s.ecc = [] → s.poison = [] → k.inreq = [] →
        k.logq = [] → k.owed = [] → k.refq = [] → (∀ h ∈ k.holdArea, h.1 = .ready ∨ h.1 = .waits) → (∀ kv ∈ s.dies, kv.2.insts = [] ∧ kv.2.unasked = []) →
        (∀ h ∈ k.holdArea, h.1 = .waits → (s.rd64 h.2.rpa).extractLsb' 56 4 ≠ 1 ∧ s.rcondMet h.2.rpa = false) → Answers .distctlRun s fun u =>
        u.creg (at' d 0x300000) = (ctl ||| 1) &&& ~~~6 ∧ (u.die d).holdArea = []
        ∧ (u.die d).ready = k.ready ++ (k.holdArea.filter fun h => h.1 = .ready).map (·.2)
        ∧ (u.die d).waitl = k.waitl ++ (k.holdArea.filter fun h => h.1 = .waits).map (fun h => { h.2 with watch := false, retryAt := 0 })
        ∧ u.mem = s.mem ∧ u.ctxs = s.ctxs)
    ∧ (ctl.getLsbD 2 = false ∨ k.accepted = false ∨ s.dieUp d = false →
        exec .distctlRun s = .next (s.setCreg (at' d 0x300000) (ctl ||| 1)))
    ∧ (v.getLsbD 3 = false → v.getLsbD 1 = true → exec (.distctlQuiesce g v) s
        = .next (s.setCreg (at' g.toNat 0x300000) ((gctl &&& ~~~0xA) ||| 2)))
    ∧ (v.getLsbD 0 = false → v.getLsbD 1 = true → v.getLsbD 3 = false → (∀ e : DieN, m = .hart e → (s.die e.toNat).outbox = []) →
        let t := s.setCreg (at' g.toNat 0x300000) ((gctl &&& ~~~0xB) ||| 2)
        let err := t.imgErr g.toNat
        let svn := Config.imgSvn ((t.imgAt g.toNat).take 128)
        (gctl.getLsbD 2 = true → s.dieUp g.toNat = true → s.ecc = [] → s.poison = [] → exec (.distctlLoad g m v) s =
          .next (if err ≠ 0 then t.setCreg (at' g.toNat 0x300010) ((gst &&& ~~~0xF) ||| BitVec.ofNat 64 err)
            else (t.setCreg (at' g.toNat 0x300010) ((svn.setWidth 64 <<< 32) ||| (gst &&& 0xFFFFFFF0))).setDie g.toNat
              { kg with accepted := true, image := t.imgAt g.toNat }))
        ∧ (gctl.getLsbD 2 = false ∨ s.dieUp g.toNat = false → exec (.distctlLoad g m v) s = .next t))
    ∧ (kg.logq = [] → kg.owed = [] → kg.refq = [] → (∀ kv ∈ s.dies, kv.2.insts = [] ∧ kv.2.unasked = []) → exec (.dlogtailWrite g v) s
        = .next (s.setCreg (at' g.toNat 0x300030) (v &&& 0xFFFFF)))

/-! ### Debug, trace and verification (chapters 03, 07, 17) -/

/-- R413 to R416, R419: HALT of a debuggable context that runs asks for a stop at its next bundle; GO lets a held one go on where it was,
STEP kept; DUMP of a held one, whose results in flight have all arrived and none of them is due, writes its image at DUMPPA and is BUSY until
every byte is performed; LOAD replaces its registers and its pending results by what the image there holds, where no tile has to be read again
from its origin and the lines read are sound, and the stop stays. Of a context that is not debuggable each request sets ERR and does nothing
else. That LOAD leaves what a handler's eret would restore as it is, is the model's choice (log entry 33). -/
def Obligations.DebugRequests : Prop :=
  ∀ (s : State) (n : CoreN) (c : CtxN) (step : Bool),
    let x := s.ctx n c
    let base := 0x7FFFF00000000 + n.toNat / 256 * 0x10000000 + 0x500000 + 0x800 * (n.toNat % 256) + 0x200 * c.toNat
    let err := s.setCreg (base + 8) (s.creg (base + 8) ||| 8)
    let idle := (s.creg (base + 8)).getLsbD 4 = false
    let pa := (s.creg (base + 0x18)).toNat / 64 % 2 ^ 46 * 64
    (s.foc.core = n → s.foc.ctx = c →
      (x.dbg = false → exec .dbgHalt s = .next err ∧ exec .dbgDump s = .next err ∧ exec .dbgLoad s = .next err)
      ∧ (x.dbg = true → x.run = .live → exec .dbgHalt s = .next (s.setCx { x with haltReq := true }))
      ∧ (x.dbg = true → x.held = true → idle → (∀ p ∈ x.pend, p.arrived = true ∧ x.a.ctxtime.toNat < p.due) → ∃ t, t = s.putImage pa (x.saveImage (x.prior = .dormant)) ∧
        exec .dbgDump s = .next (t.setCreg (base + 8) (t.creg (base + 8) ||| 16)))
      ∧ exec .dbgDumpDone s = .next (s.setCreg (base + 8) (s.creg (base + 8) &&& ~~~16))
      ∧ (x.dbg = true → x.held = true → idle → s.ecc = [] → s.poison = [] → (s.readArch pa x.vunits x.a.pc).loads = [] → Answers .dbgLoad s fun u =>
          (∃ ps : List Pend, u.cx.pend = ps ∧ u.cx.a = { (s.readArch pa x.vunits x.a.pc).withPend ps with cut := x.a.cut }
            ∧ ps.map (fun p => { p with seq := 0 }) = (s.readPend pa x.a.pc (s.readArch pa x.vunits x.a.pc).ctxtime).map fun p => { p with seq := 0 })
          ∧ u.cx.run = x.run ∧ u.cx.sq = x.sq ∧ u.mem = s.mem ∧ u.cregs = s.cregs ∧ SameBut s u n c))
    ∧ (x.dbg = false → exec (.dbgGo n c step) s = .next err)
    ∧ (x.dbg = true → x.held = true → idle → x.rollReq = false → x.forceReq = false → (∀ e ∈ x.lq, e.reported = false) →
      (s.core n).berthq = [] → (x.prior = .live → (∀ e ∈ x.lq ++ x.pound ++ x.sq, e.park = none) ∧ x.fpark = none) →
      (x.prior = .waiting → ∃ e ∈ x.lq ++ x.pound ++ x.sq, e.park.isSome) → (x.prior = .dormant → x.preq = none) →
      Answers (.dbgGo n c step) s fun u => (u.ctx n c).run = x.prior ∧ (u.ctx n c).a = x.a
        ∧ (u.ctx n c).stepReq = step ∧ u.creg base = (if step then 2 else 0) ∧ u.mem = s.mem ∧ SameBut s u n c)

/-- R420 to R422, R425: a write of TRCCTL with EN 1 opens a session of a debuggable context, with a record of its start, and clears the
dropped count; with EN 0 it ends an open session with a record. A sample puts a record in the ring of each context whose session has
samples enabled, where the ring has room, once in its core cycle. -/
def Obligations.TraceSteps : Prop :=
  ∀ (s : State) (n : CoreN) (c : CtxN) (v : Word),
    let base (c : CtxN) : Nat := 0x7FFFF00000000 + n.toNat / 256 * 0x10000000 + 0x500000 + 0x800 * (n.toNat % 256) + 0x200 * c.toNat
    let ctl := s.creg (base c + 0x60)
    let size (c : CtxN) : Nat := 2 ^ ((s.creg (base c + 0x68)).toNat % 16 + 4)
    let head (c : CtxN) : Nat := (s.creg (base c + 0x70)).toNat % 2 ^ 20
    let room (c : CtxN) : Prop := (head c + 1) % size c ≠ (s.creg (base c + 0x78)).toNat % 2 ^ 20 % size c
    let err := s.setCreg (base c + 8) (s.creg (base c + 8) ||| 8)
    let per := (s.creg (0x7FFFF00000000 + n.toNat / 256 * 0x10000000 + 0x580000 + 0x80 * (n.toNat % 256) + 0x40)).toNat % 2 ^ 32
    ((s.ctx n c).dbg = false → exec (.traceSessionOpen n c v) s = .next err ∧ exec (.traceSessionClose n c v) s = .next err)
    ∧ ((s.ctx n c).dbg = true →
      (ctl.getLsbD 0 = true → exec (.traceSessionOpen n c v) s
        = .next (s.setCreg (base c + 0x60) ((ctl &&& ~~~0x3F) ||| (v &&& 0x3F) ||| 1)))
      ∧ (ctl.getLsbD 0 = false → exec (.traceSessionClose n c v) s
        = .next (s.setCreg (base c + 0x60) ((ctl &&& ~~~0x3F) ||| (v &&& 0x3E))))
      ∧ (room c → mwf .zero s.ctxs = true →
        (ctl.getLsbD 0 = false → Answers (.traceSessionOpen n c v) s fun u =>
          u.creg (base c + 0x60) = (ctl &&& ~~~0x3F) ||| (v &&& 0x3F) ||| 1 ∧ u.creg (base c + 0x80) = 0
          ∧ u.creg (base c + 0x70) = BitVec.ofNat 64 ((head c + 1) % size c) ∧ ∀ m e, (u.ctx m e).a = (s.ctx m e).a)
        ∧ (ctl.getLsbD 0 = true → Answers (.traceSessionClose n c v) s fun u =>
          u.creg (base c + 0x60) = (ctl &&& ~~~0x3F) ||| (v &&& 0x3E)
          ∧ u.creg (base c + 0x70) = BitVec.ofNat 64 ((head c + 1) % size c) ∧ ∀ m e, (u.ctx m e).a = (s.ctx m e).a)))
    ∧ (s.foc.core = n → per ≠ 0 → (s.core n).cyc.toNat % per = 0 → (s.core n).sampled ≠ some (s.core n).cyc.toNat → mwf .zero s.ctxs = true → (s.ctx n c).dbg = true →
      ctl.getLsbD 0 = true → ctl.getLsbD 5 = true → room c → Answers .sampleTick s fun u =>
        u.creg (base c + 0x70) = BitVec.ofNat 64 ((head c + 1) % size c) ∧ ∀ m e, (u.ctx m e).a = (s.ctx m e).a)

/-- R80: a double error in a register with a checkpoint copy takes the context back to its checkpoint, another stops it with a machine check;
one in a memory array or a core local cache poisons the line there.
R181 to R183: the arbiter settles the dispute of the one request in its queue and records the engines it blames, the operation and the
context in LASTBLAME, or, if it cannot agree with itself, the context stops with cause 0x0B. R184: 2^20 clean intervals are taken off CLEANCNT, and with DECAY both scores go down by one. R187: a
known-answer run that both copies passed changes nothing; one that both failed alike is counted in KATCONST.
R78, R79, R81: a line not held by the L2 or the LLC that the scrubber reads with one or two bad symbols is corrected and counted; with three
or four it is poisoned, and the first such line's address is kept; with more it is poisoned or, miscorrected, counted as corrected with
values that the spec leaves open. A line that stays held keeps its bytes and is not poisoned. With scrubbing off the symbols only add up.
R389, R186, R187: mkat occupies the engine for d and notes its run, whose outcome follows eight core cycles later; it writes no
register. The values that a miscorrected line takes are free (log entry 19), and so is which lines the caches hold (log entry 58). That the
stop of a failed arbitration leaves the dispute in the queue, and that it keeps its place, is the model's choice (log entry 79). -/
def Obligations.VerificationSteps : Prop :=
  (∀ (s : State) (n : CoreN) (c : CtxN),
     let x := s.ctx n c
     let ver (n : CoreN) (off : Nat) : Nat := 0x7FFFF00000000 + n.toNat / 256 * 0x10000000 + 0x200000 + 0x40 * (n.toNat % 256) + off
     (x.dbg = false →
       (x.run = .live ∨ x.run = .waiting → Answers (.registerDoubleError n c (.reg true)) s fun u =>
         (u.ctx n c).run = .live ∧ (u.ctx n c).a = { x.ck with donemask := 0 } ∧ (u.ctx n c).sq = x.sq ∧ u.mem = s.mem ∧ SameBut s u n c)
       ∧ (x.held = true → exec (.registerDoubleError n c (.reg true)) s = .next (s.setCtx n c { x with rollReq := true }))
       ∧ (x.run = .live ∨ x.run = .waiting → Answers (.registerDoubleError n c (.reg false)) s fun u =>
         (u.ctx n c).run = .stopped ∧ (u.ctx n c).a.trapcause.extractLsb' 0 20 = 0x40106 ∧ (u.ctx n c).a.sr = x.a.sr
         ∧ u.mem = s.mem ∧ SameBut s u n c))
     ∧ (∀ pa : PAddr, s.inArray pa.toNat = true → exec (.registerDoubleError n c (.array pa)) s
         = .next { s with poison := mset false s.poison (pa.toNat / 64) true })
     ∧ (∀ pa : PAddr, (s.core n).cached pa.toNat ≠ none → Answers (.registerDoubleError n c (.cache pa)) s fun u =>
         pa.toNat / 64 ∈ (u.core n).cpoison ∧ u.mem = s.mem ∧ u.poison = s.poison ∧ u.ctxs = s.ctxs)
     ∧ (∀ (cl : ClusterN) (d : Dispute) (at' : Nat), (s.cluster cl.toNat).arb = [(at', n.toNat, c.toNat)] → x.dispute = some d →
       (x.forceReq = false → (x.held = true → x.a.trapcause.extractLsb' 0 8 ≠ 0x0B) → mwf .zero s.ctxs = true → Answers (.arbiterServe cl true) s fun u => (u.ctx n c).dispute = none
         ∧ (u.cluster cl.toNat).arb = [] ∧ (u.ctx n c).scSettled = true ∧ (u.ctx n c).a.acc = x.a.acc
         ∧ ((u.creg (ver n 0x20)).getLsbD 62 = d.wrong d.prim) ∧ ((u.creg (ver n 0x20)).getLsbD 63 = d.wrong d.shad)
         ∧ (u.creg (ver n 0x20)).extractLsb' 0 48 = d.pc.extractLsb' 0 48 ∧ (u.creg (ver n 0x20)).extractLsb' 58 2 = c)
       ∧ (x.held = true → exec (.arbiterServe cl false) s = .next s)
       ∧ (x.held = false → x.dbg = false → Answers (.arbiterServe cl false) s fun u => (u.ctx n c).run = .stopped ∧ (u.ctx n c).dispute = some d
         ∧ (u.ctx n c).a.trapcause.extractLsb' 0 20 = 0x4000B ∧ (u.cluster cl.toNat).arb = [(at', n.toNat, c.toNat)]))
     ∧ (s.foc.core = n →
       (∀ cnt, cnt = s.creg (ver n 0x18) → 2 ^ 20 ≤ cnt.toNat →
         ((s.creg (ver n 0)).getLsbD 1 = false → exec .cleancntWrap s = .next (s.setCreg (ver n 0x18) (cnt - 0x100000)))
         ∧ ((s.creg (ver n 0)).getLsbD 1 = true → ∃ w : Word,
             exec .cleancntWrap s = .next ((s.setCreg (ver n 0x18) (cnt - 0x100000)).setCreg (ver n 8) w)
             ∧ (w.extractLsb' 0 8).toNat = ((s.creg (ver n 8)).extractLsb' 0 8).toNat - 1
             ∧ (w.extractLsb' 8 8).toNat = ((s.creg (ver n 8)).extractLsb' 8 8).toNat - 1
             ∧ w.extractLsb' 16 48 = (s.creg (ver n 8)).extractLsb' 16 48))
       ∧ ∀ (a : Kat) (l : List Kat), (s.core n).kats = a :: l → a.done ≤ (s.core n).cyc.toNat →
         (a.prim = a.want → a.shad = a.want → exec .mkatOutcome s = .next (s.setCore n { s.core n with kats := l }))
         ∧ (a.prim ≠ a.want → a.shad = a.prim → Answers .mkatOutcome s fun u => (u.core n).kats = l ∧ u.ctxs = s.ctxs
           ∧ ((u.creg (ver n 0x10)).extractLsb' 0 8).toNat = min 255 (((s.creg (ver n 0x10)).extractLsb' 0 8).toNat + 1))))
  ∧ (∀ (s : State) (i : SillN) (line : BitVec 30) (sym : BitVec 3),
       let l := i.toNat * 2 ^ 30 + line.toNat
       let base := 0x7FFFF80000000 + i.toNat * 0x8000000
       let k := min 7 (mget 0 s.ecc l + sym.toNat)
       mget 0 s.ecc l < 8 →
       let st := s.creg (base + 0x2008)
       let counted (u : State) : Prop := ((u.creg (base + 0x2008)).extractLsb' 32 32).toNat = min (2 ^ 32 - 1) ((st.extractLsb' 32 32).toNat + 1)
       ((s.creg (base + 0x2000)).getLsbD 0 = false → exec (.refreshRow i line sym) s = .next { s with ecc := mset 0 s.ecc l k })
       ∧ ((s.creg (base + 0x2000)).getLsbD 0 = true → Answers (.refreshRow i line sym) s fun u =>
           s.l2Has l = true → u.l2Has l = true → u.mem = s.mem ∧ u.poison = s.poison ∧ u.ctxs = s.ctxs)
       ∧ ((s.creg (base + 0x2000)).getLsbD 0 = true → s.l2Has l = false → k ≠ 0 → Answers (.refreshRow i line sym) s fun u =>
           mget 0 u.ecc l = 0 ∧ MemOutside s u (64 * l) 64 ∧ u.ctxs = s.ctxs
           ∧ (k ≤ 2 → u.mem = s.mem ∧ u.poison = s.poison ∧ counted u ∧ u.creg (base + 0x2010) = s.creg (base + 0x2010))
           ∧ (2 < k → k < 5 → u.mem = s.mem ∧ mget false u.poison l = true
             ∧ ((u.creg (base + 0x2008)).extractLsb' 16 16).toNat = min (2 ^ 16 - 1) ((st.extractLsb' 16 16).toNat + 1)
             ∧ (u.creg (base + 0x2008)).getLsbD 0 = true
             ∧ (st.getLsbD 0 = false → u.creg (base + 0x2010) = BitVec.ofNat 64 (64 * l)))
           ∧ (4 < k → mget false u.poison l = true ∨ counted u)))
  ∧ (∀ (s : State) (fmt : BitVec 4) (seed : Reg) (sig : Word),
       let n := s.foc.core
       let k := s.core n
       let d := if fmt = 12 then 9 else 8
       let free := k.cyc.toNat + (if n.toNat / 256 < 4 then d else 2 * d)
       Ready (.mkat fmt seed sig) s → ∃ p q : Word, exec (.mkat fmt seed sig) s = .next (s.setCore n
         { k with engFree := free, kats := k.kats ++ [⟨s.foc.ctx.toNat, free + 8, p, q, sig, s.cx.a.pc⟩] })
         ∧ (k.stuck = [] → p = q))

/-! ### Host, links and package (chapter 18) -/

/-- R37, R92, R93, R427, R428: with the host link up, a write of a function that is not stopped, on sound reachable local memory, leaves its
bytes there; a read within a line is completed with the bytes; an AtomicOp leaves its result and is completed with the old value, and a 128-bit
one with Unsupported Request, none of them behind a request that waits. A write of a register is that register's write. A stopped function's writes are held, and its reads are
aborted; an access of a hole is a violation that stops the function, and so is an AtomicOp on control space. That the writes
of a stopped function stay held is the model's reading (log entry 39). -/
def Obligations.HostAccesses : Prop :=
  ∀ (s : State) (rid : BitVec 16) (off : BitVec 42) (bytes : List Byte) (w : HostWr) (len : Nat) (op : HostAtom) (v cmp : Word),
    w = .ordered bytes ∨ w = .relaxed bytes → s.pkg.hostq = [] →
    let pa := off.toNat
    let up := s.pkg.pcie = true
    let live := s.pkg.stopped rid = false
    let sound (len : Nat) : Prop := regionOf pa = .hbm ∧ pa % 64 + len ≤ 64 ∧ 0 < len ∧ s.poisoned pa = false ∧ mget 0 s.ecc (pa / 64) = 0
      ∧ populated s 0 pa = true ∧ mwf .zero s.ctxs = true
    let good := populated s 0 (0x7FFFF00000000 + pa) = true ∧ s.poisoned (0x7FFFF00000000 + pa) = false
    let told (u : State) (r : Cpl) : Prop := u.pkg.hostCpl = s.pkg.hostCpl ++ [(pa, r)] ∧ ∀ m c, (u.ctx m c).a = (s.ctx m c).a
    (up → live → sound bytes.length → Answers (.hostWrite rid false off w) s fun u =>
      u.rdBytes pa bytes.length = bytes ∧ MemOutside s u pa bytes.length ∧ u.cregs = s.cregs ∧ ∀ m c, (u.ctx m c).a = (s.ctx m c).a)
    ∧ (up → live → sound len → Answers (.hostRead rid false off len) s fun u => told u (.data (s.rdBytes pa len)) ∧ u.mem = s.mem)
    ∧ (up → live → ∀ wide : BitVec 2, wide ≤ 1 → ∀ n, n = (if wide = 0 then 4 else 8) → pa % n = 0 → sound n →
      Answers (.hostAtomicop rid (.bar0 off) op wide v cmp) s fun u =>
        let old := leNat (s.rdBytes pa n)
        let x := v.toNat % 2 ^ (8 * n)
        told u (.data (s.rdBytes pa n)) ∧ MemOutside s u pa n
        ∧ leNat (u.rdBytes pa n) = (match op with
            | .fetchAdd => (old + x) % 2 ^ (8 * n)
            | .swap => x
            | .cas => if old = cmp.toNat % 2 ^ (8 * n) then x else old))
    ∧ (up → Answers (.hostAtomicop rid (.bar0 off) op 2 v cmp) s fun u => told u .unsupported ∧ u.mem = s.mem)
    ∧ (up → live → mwf .zero s.ctxs = true → ∀ (o : BitVec 42) (wide : BitVec 2), wide ≤ 1 →
      Answers (.hostAtomicop rid (.bar2 o) op wide v cmp) s fun u =>
        u.pkg.hostCpl = s.pkg.hostCpl ++ [(0x7FFFF00000000 + o.toNat, .abort)] ∧ rid.toNat ∈ u.pkg.hostStopped
        ∧ ∀ m c, (u.ctx m c).a = (s.ctx m c).a)
    ∧ (up → live → bytes.length = 8 → pa % 8 = 0 → good → ∀ (d : DieN) q, q < 512 → pa = d.toNat * 0x10000000 + 0x310000 + 8 * q →
      exec (.hostWrite rid true off w) s
        = exec (.registerWrite (.host rid) (BitVec.ofNat 52 (0x7FFFF00000000 + pa)) (BitVec.ofNat 64 (leNat bytes))) s)
    ∧ (up → live → good → ∀ (d : DieN) q, q < 512 → pa = d.toNat * 0x10000000 + 0x310000 + 8 * q → Answers (.hostRead rid true off 8) s fun u =>
        u.pkg.hostCpl = s.pkg.hostCpl ++ [(0x7FFFF00000000 + pa, .data (leBytes 8 (s.creg (0x7FFFF00000000 + pa)).toNat))]
        ∧ u.mem = s.mem ∧ u.ctxs = s.ctxs)
    ∧ (up → s.pkg.stopped rid = true → bytes.length ≤ 512 → len ≤ 4096 →
      (Answers (.hostWrite rid false off w) s fun u => u.mem = s.mem ∧ u.ctxs = s.ctxs
        ∧ u.pkg.hostHeld = s.pkg.hostHeld ++ [(rid.toNat, pa, bytes)])
      ∧ Answers (.hostRead rid false off len) s fun u => told u .abort ∧ u.mem = s.mem)
    ∧ (up → live → regionOf pa = .reserved → 0 < bytes.length → bytes.length ≤ 64 → Answers (.hostWrite rid false off w) s fun u =>
        rid.toNat ∈ u.pkg.hostStopped ∧ u.pkg.hostCpl = s.pkg.hostCpl)

/-- R429: a key rollover moves a stream's transmitter to the other slot, the flits not yet acknowledged keep theirs, and the old slot is
retired with the last of them; a rollover asked for while one is not retired waits. A flit received under the receiver's slot must not precede
the first one of that slot, unless it is one of that slot itself which came damaged: the next in order, behind every flit of the other slot (log
entry 109); one under the other slot must precede it, or is the first of the next rollover, before which every flit has come in
order. Every other stream is as before.
R133, R430, R134, R135: a flit in sequence with a good CRC is accepted: the next one is wanted, and its ACK takes what it acknowledges off the
other direction's replay buffer, behind which a replay request (KIND 5) has its sender go back; one that is damaged or out of sequence is
discarded, and counted as a replay where it is the wanted flit sent again; a sender holds at most 1024 flits; the 64th replay takes the link
down. A link that goes down stops its traffic: its bit in PKGSTAT clears, its bit in PKGFAIL is set, and the failure is reported over MCTP and
I3C. The bit order of the CRC, that a damaged flit is taken for the one that its
sender sends next, and which arrivals count as replays are the model's reading (log entry 42); what word an event is (log entry 43), and that the sends of
this module on a towpath link are no steps and are seen from the peer's ACKs (log entry 82), are its choice. -/
def Obligations.LinkSteps : Prop :=
  (∀ (s : State) (i : BitVec 3) (slot : BitVec 1) (seq : Nat),
     let x := s.pkg.stream i.toNat
     let put (y : Ide) : State := { s with pkg := { s.pkg with ide := mset .zero s.pkg.ide i.toNat y } }
     let took : Ide := { x with
       rxNext := if seq = x.rxNext then seq + 1 else x.rxNext
       badAt := if x.badAt = some seq then none else x.badAt
       rxTop := mset 0 x.rxTop slot.toNat (max (mget 0 x.rxTop slot.toNat) (seq + 1)) }
     let first : Prop := seq = x.rxNext ∧ mget 0 x.rxTop (1 - slot.toNat) ≤ seq
     i.toNat ≤ 4 →
       (x.old = none → slot = x.slot → exec (.ideKeyRollover i slot) s = .next (put x))
       ∧ (x.old = none → slot ≠ x.slot → x.unacked = [] → exec (.ideKeyRollover i slot) s = .next (put { x with slot := slot }))
       ∧ (x.old = none → slot ≠ x.slot → x.unacked ≠ [] →
         exec (.ideKeyRollover i slot) s = .next (put { x with old := some x.slot, slot := slot }))
       ∧ (∀ a, x.old = some a → exec (.ideKeyRollover i slot) s = .next (put { x with queued := some slot }))
       ∧ (x.old = none → exec (.hostLinkFlit (.ack i seq)) s = .next (put { x with unacked := x.unacked.filter fun f => seq < f.1 }))
       ∧ (∀ a, x.old = some a → x.queued = none → (∀ f ∈ x.unacked, seq < f.1 → f.2 ≠ a) →
         exec (.hostLinkFlit (.ack i seq)) s
           = .next (put { x with unacked := x.unacked.filter (fun f => seq < f.1), old := none }))
       ∧ ((slot = x.rxSlot ∧ x.rxFrom ≤ seq) ∨ (slot ≠ x.rxSlot ∧ seq < x.rxFrom) → exec (.hostLinkFlit (.flit i slot seq)) s = .next (put took))
       ∧ (slot = x.rxSlot → seq < x.rxFrom → ¬first → exec (.hostLinkFlit (.flit i slot seq)) s = .next (put { x with badAt := some seq }))
       ∧ (slot = x.rxSlot → seq < x.rxFrom → first →
         exec (.hostLinkFlit (.flit i slot seq)) s = .next (put { took with rxFrom := seq }))
       ∧ (slot ≠ x.rxSlot → x.rxFrom < seq → x.rxFrom ≤ x.rxNext → x.rxNext ≤ seq → x.badAt = none →
         exec (.hostLinkFlit (.flit i slot seq)) s = .next (put { took with rxSlot := slot, rxFrom := seq }))
       ∧ (slot ≠ x.rxSlot → x.rxFrom ≤ seq → seq < x.rxNext →
         exec (.hostLinkFlit (.flit i slot seq)) s = .next (put { x with badAt := some seq }))
       ∧ exec (.hostLinkFlit (.bad i seq)) s = .next (put x))
  ∧ (∀ (s : State) (l : WeatorN) (t : DieN) (dir : Bool) (hdr : Word) (payload : BitVec 512),
       let stat := s.creg 0x7FFFF00700008
       let fail := s.creg 0x7FFFF00700020
       let bad := flitBad hdr payload = true
       let seq := (hdr.extractLsb' 52 12).toNat
       let a := ((hdr.extractLsb' 40 12).toNat + 1) % 4096
       let far (p q : Nat) : Nat := (q + 4096 - p) % 4096
       let sends (x : Link) (q : Nat) : Prop := far x.acked q < far x.acked x.sent ∨ (q = x.sent ∧ far x.acked x.sent < 1024)
       let send (x : Link) (q : Nat) : Link :=
         { x with next := (q + 1) % 4096, sent := if q = x.sent then (q + 1) % 4096 else x.sent }
       let acks (y : Link) : Link := { y with
         acked := a
         next := if hdr.extractLsb' 36 4 = 5 ∨ far y.acked y.next < far y.acked a then a else y.next }
       let links (m : SMap Link) (k : Nat) (x : Link) (o : Nat) (y : Link) : Prop :=
         mget .zero m k = x ∧ mget .zero m o = y
       let rest (u : State) : Prop := { u with pkg := { u.pkg with weator := s.pkg.weator, towpath := s.pkg.towpath } } = s
       let k := 2 * l.val + if dir then 1 else 0
       let o := 2 * l.val + if dir then 0 else 1
       let x := mget Link.zero s.pkg.weator k
       let y := mget Link.zero s.pkg.weator o
       let q := if bad then x.next else seq
       (stat.getLsbD (16 + l.val) = true →
         (¬bad → seq = x.want → sends x seq → far y.acked a ≤ far y.acked y.sent → Answers (.weatorFlit l dir hdr payload) s fun u =>
           links u.pkg.weator k { send x seq with want := (x.want + 1) % 4096, replays := 0 } o (acks y) ∧ rest u)
         ∧ (¬bad → seq = x.want → sends x seq → far y.acked y.sent < far y.acked a → Answers (.weatorFlit l dir hdr payload) s fun u =>
           links u.pkg.weator k { send x seq with want := (x.want + 1) % 4096, replays := 0 } o y ∧ rest u)
         ∧ (bad ∨ seq ≠ x.want → sends x q → x.replays < 63 → Answers (.weatorFlit l dir hdr payload) s fun u =>
           links u.pkg.weator k { send x q with replays := x.replays + if q = x.want ∧ q ≠ x.sent then 1 else 0 } o y ∧ rest u)
         ∧ (¬sends x q → x.replays < 64 → Answers (.weatorFlit l dir hdr payload) s fun u => links u.pkg.weator k x o y ∧ rest u)
         ∧ (bad → sends x q → q = x.want → q ≠ x.sent → x.replays = 63 → (∀ kv ∈ s.ctxs, kv.2.sq = [] ∧ kv.2.rq = []) →
           Answers (.weatorFlit l dir hdr payload) s fun u => u.creg 0x7FFFF00700008 = stat &&& ~~~((1 : Word) <<< (16 + l.val))
             ∧ u.creg 0x7FFFF00700020 = fail ||| (1 : Word) <<< (32 + l.val) ∧ u.mem = s.mem ∧ u.ctxs = s.ctxs))
       ∧ (let x := mget Link.zero s.pkg.towpath (2 * t.toNat)
          let y := mget Link.zero s.pkg.towpath (2 * t.toNat + 1)
          let q := if bad then x.next else seq
          stat.getLsbD (8 + t.toNat) = true →
         (¬bad → seq = x.want → sends x seq → far y.acked a ≤ far y.acked y.sent → Answers (.towpathFlit t hdr payload) s fun u =>
           links u.pkg.towpath (2 * t.toNat) { send x seq with
             want := (x.want + 1) % 4096, replays := 0, acked := (x.want + 1) % 4096 } (2 * t.toNat + 1) (acks y) ∧ rest u)
         ∧ (¬bad → seq = x.want → sends x seq → far y.acked y.sent < far y.acked a → far y.acked a ≤ 1024 →
           Answers (.towpathFlit t hdr payload) s fun u => links u.pkg.towpath (2 * t.toNat) { send x seq with
             want := (x.want + 1) % 4096, replays := 0, acked := (x.want + 1) % 4096 } (2 * t.toNat + 1)
             { y with acked := a, next := a, sent := a } ∧ rest u)
         ∧ (bad ∨ seq ≠ x.want → sends x q → x.replays < 63 → Answers (.towpathFlit t hdr payload) s fun u =>
           links u.pkg.towpath (2 * t.toNat) { send x q with
             replays := x.replays + (if q = x.want ∧ q ≠ x.sent then 1 else 0), acked := x.want } (2 * t.toNat + 1) y ∧ rest u))
       ∧ ((∀ kv ∈ s.ctxs, kv.2.sq = [] ∧ kv.2.rq = []) → stat.getLsbD (16 + l.val) = true → Answers (.weatorLinkDown l) s fun u =>
           u.creg 0x7FFFF00700008 = stat &&& ~~~((1 : Word) <<< (16 + l.val)) ∧ u.creg 0x7FFFF00700020 = fail ||| (1 : Word) <<< (32 + l.val)
           ∧ u.mem = s.mem ∧ u.ctxs = s.ctxs ∧ u.pkg.mctp = s.pkg.mctp ++ [u.creg 0x7FFFF00700020]
           ∧ u.pkg.i3c = s.pkg.i3c ++ [u.creg 0x7FFFF00700020])
       ∧ ((∀ kv ∈ s.ctxs, kv.2.sq = [] ∧ kv.2.rq = []) → stat.getLsbD (8 + t.toNat) = true → Answers (.towpathLinkDown t) s fun u =>
           u.creg 0x7FFFF00700008 = stat &&& ~~~((1 : Word) <<< (8 + t.toNat)) ∧ u.creg 0x7FFFF00700020 = fail ||| (1 : Word) <<< (16 + t.toNat)
           ∧ u.mem = s.mem ∧ u.ctxs = s.ctxs ∧ u.pkg.mctp = s.pkg.mctp ++ [u.creg 0x7FFFF00700020]
           ∧ u.pkg.i3c = s.pkg.i3c ++ [u.creg 0x7FFFF00700020]))

/-- R433 to R439, R426: after a power-on reset nothing but host and peer memory and the fuses is kept, and the firmware runs if it was
verified. A unit that trains sets its bit in PKGSTAT, a stack with tag 0 in every granule; one that does not in its time sets its bit in PKGFAIL
and is reported. A die is ready for reduced service once, and moves to full service when every stack and link is settled. POWER and
temperature are reported, THROT is 1 over the limit or at 105 degrees, which is a thermal event reported over I3C where it is come to, and at
115 the module is reset. A measurement is answered once the host link is up, signed. What word an event is (log
entry 43), what a reset keeps (log entry 44) and the layout of measurement 3 (log entry 45) are the model's choice; digests, hashes and
signatures are free. -/
def Obligations.PackageSteps : Prop :=
  ∀ (s : State) (ok : Bool) (j : SillN) (l : WeatorN) (t : DieN) (watts : BitVec 16) (temp : BitVec 8),
    let stat := s.creg 0x7FFFF00700008
    let fail := s.creg 0x7FFFF00700020
    let lim := (s.creg 0x7FFFF00700010).toNat % 2 ^ 16
    let bit (i : Nat) : Word := (1 : Word) <<< i
    let d := s.foc.core.toNat / 256
    let boot := s.pkg.booted = true
    Answers (.powerOnReset ok) s (fun u => u.pkg = { Pkg.zero with booted := ok } ∧ u.ctxs = [] ∧ u.cregs = [] ∧ u.dies = [] ∧ u.gran = []
      ∧ (∀ a, u.rdByte a = if 0x7FFFF00000000 ≤ a then s.rdByte a else 0)
      ∧ (mwf .zero s.cores = true → ∀ n, u.core n = { Core.zero with capr := (s.core n).capr, stuck := (s.core n).stuck }))
    ∧ (boot → exec .pciExpressLinkTrained s = .next { s with pkg := { s.pkg with pcie := true } })
    ∧ (boot → stat.getLsbD (32 + j.toNat) = false → fail.getLsbD j.toNat = false → Answers (.stackTrained j) s fun u =>
        u.creg 0x7FFFF00700008 = stat ||| bit (32 + j.toNat) ∧ u.mem = s.mem ∧ u.ctxs = s.ctxs
        ∧ ∀ g, mget 0 u.gran g = if j.toNat * 0x80000000 ≤ g ∧ g < (j.toNat + 1) * 0x80000000 then 0 else mget 0 s.gran g)
    ∧ (boot → fail.getLsbD (32 + l.val) = false →
        exec (.weatorLinkTrained l) s = .next (s.setCreg 0x7FFFF00700008 (stat ||| bit (16 + l.val))))
    ∧ (boot → fail.getLsbD (16 + t.toNat) = false → stat.getLsbD 63 = true →
        exec (.towpathLinkTrained t) s = .next (s.setCreg 0x7FFFF00700008 (stat ||| bit (8 + t.toNat))))
    ∧ (boot → stat.getLsbD (32 + j.toNat) = false → fail.getLsbD j.toNat = false → Answers (.trainingTimeout (.stack j)) s fun u =>
        u.creg 0x7FFFF00700020 = fail ||| bit j.toNat ∧ u.creg 0x7FFFF00700008 = stat ∧ u.mem = s.mem ∧ u.ctxs = s.ctxs
        ∧ u.pkg.mctp = s.pkg.mctp ++ [fail ||| bit j.toNat] ∧ u.pkg.i3c = s.pkg.i3c ++ [fail ||| bit j.toNat])
    ∧ (boot → (s.die d).service = 0 →
        exec .dieReady s = .next ((s.setDie d { s.die d with service := 1 }).setCreg 0x7FFFF00700008 (stat ||| bit d)))
    ∧ ((s.die d).service = 1 → (∀ i < 16, stat.getLsbD (32 + i) = true ∨ fail.getLsbD i = true) →
        (∀ i < 10, stat.getLsbD (16 + i) = true ∨ fail.getLsbD (32 + i) = true) →
        (∀ e < 8, e ≠ d → (s.die e).service = 2) → Answers .fullServiceTransition s fun u => (u.die d).service = 2
          ∧ u.creg 0x7FFFF00700008 = stat ||| bit 63 ||| (if fail = 0 then 0 else bit 62) ∧ u.mem = s.mem ∧ u.ctxs = s.ctxs)
    ∧ Answers (.powerSample watts temp) s (fun u => ∃ w : Word, { u with pkg := s.pkg } = s.setCreg 0x7FFFF00700018 w
        ∧ u.pkg = { s.pkg with i3c := s.pkg.i3c
            ++ if 105 ≤ temp.toNat ∧ ((s.creg 0x7FFFF00700018).extractLsb' 24 8).toNat < 105 then [w] else [] }
        ∧ w.extractLsb' 0 16 = watts
        ∧ w.extractLsb' 24 8 = temp ∧ (lim < watts.toNat ∨ 105 ≤ temp.toNat → w.getLsbD 16 = true)
        ∧ (100 * watts.toNat ≤ 95 * lim → temp.toNat < 105 → w.getLsbD 16 = false))
    ∧ (115 ≤ temp.toNat → Answers (.thermalTrip temp) s fun u => u.ctxs = [] ∧ u.cregs = [] ∧ u.pkg.booted = false
        ∧ u.pkg.i3c = [temp.setWidth 64])
    ∧ (s.pkg.pcie = true → ∀ idx : BitVec 8, idx = 1 ∨ idx = 2 ∨ idx = 3 ∨ idx = 16 → Answers (.spdmGetMeasurements idx) s fun u =>
        ∃ bs, s.measure idx.toNat = some bs ∧ u = { s with pkg := { s.pkg with spdm := s.pkg.spdm ++ [(bs, Config.sign bs)] } }
        ∧ (idx = 1 ∨ idx = 2 → bs.length = 48) ∧ (idx = 16 → bs.length = 1032))

/-! ### Translation and instruction fill (chapters 01, 05, 11) -/

/-- R29, R23, R30: a walk for a load of one piece takes the translation from the walker's cache, or from the leaf that four levels of tables
give, whose A is then set; an entry with V 0 parks the access on its line, armed with a monitor, and the context waits with a page fault that
names the pointer. R30, R31, R128: a write to a monitored line frees its monitor and
wakes what is parked on it, and the unmonitored entries of the clusters whose monitor it fires. -/
def Obligations.WalksAndWakes : Prop :=
  ∀ (s : State) (e : Entry) (p : Piece) (d w : Nat) (sgn : Bool),
    let n := s.foc.core
    let x := s.cx
    let cl := n.toNat / 64
    let va := p.ptr.toNat % 2 ^ 48
    let at' (level base : Nat) : Nat := base + 8 * (va / 2 ^ (12 + 9 * level) % 512)
    let next (e : Word) : Nat := e.toNat / 4096 % 2 ^ 40 * 4096
    let pointer (e : Word) : Prop := e.extractLsb' 0 2 = 3 ∧ e.extractLsb' 52 8 = 0 ∧ regionOf (next e) = .hbm
    let given (t : Tr) : Entry := { e with pieces := [{ p with tr := some t }], park := none, woken := false, unmon := false }
    (x.toWalk = some e → e.kind = .ld d w sgn → e.pieces = [p] → p.tr = none → e.unmon = false → mwf .zero s.ctxs = true →
      (∀ t, tlbFind (s.cluster cl).tlb x.asid va = some t → t.rd = true → x.run = .live →
        exec .pageWalk s = .next (s.setCx (x.onEntry e fun _ => given ⟨t.pbase + (va - t.vbase), t.mt, t.tc, t.size, false, false⟩)))
      ∧ (tlbFind (s.cluster cl).tlb x.asid va = none → regionOf x.ptroot = .hbm → s.ecc = [] → s.poison = [] →
        (∀ e3 e2 e1 l : Word, e3 = s.rd64 (at' 3 x.ptroot) → e2 = s.rd64 (at' 2 (next e3)) → e1 = s.rd64 (at' 1 (next e2)) →
          l = s.rd64 (at' 0 (next e1)) → pointer e3 → pointer e2 → pointer e1 →
          l.extractLsb' 0 2 = 1 → l.getLsbD 2 = true → l.extractLsb' 7 2 = 0 → l.extractLsb' 10 2 ≠ 3 → l.extractLsb' 52 8 = 0 →
          regionOf (next l) = .hbm → Answers .pageWalk s fun u =>
            u.rd64 (at' 0 (next e1)) = l ||| 0x20 ∧ MemOutside s u (at' 0 (next e1)) 8
            ∧ (e ∈ x.lq → given ⟨next l + va % 4096, l.extractLsb' 10 2, l.getLsbD 9, 4096, false, false⟩ ∈ u.cx.lq) ∧ u.cx.a = x.a
            ∧ ∃ t, tlbFind (u.cluster cl).tlb x.asid va = some t ∧ t.pbase = next l ∧ t.size = 4096 ∧ t.vbase = va / 4096 * 4096)
        ∧ ((s.rd64 (at' 3 x.ptroot)).getLsbD 0 = false → e.park = none → x.forwarded e p = false → x.run = .live → x.dbg = false →
          (s.cluster cl).mons.length < 32 → (s.cluster cl).mons.contains (at' 3 x.ptroot / 64) = false → Answers .pageWalk s fun u =>
            u.cx.run = .waiting ∧ u.cx.a.trapcause.toNat % 2 ^ 20 = 4 ∧ u.cx.a.traparg = p.ptr ∧ u.cx.a.trappc = e.pc &&& 0xFFFFFFFFFFFC
            ∧ (e ∈ x.lq → ∃ q ∈ u.cx.lq, q.seq = e.seq ∧ q.park = some (at' 3 x.ptroot / 64))
            ∧ (∀ r, u.cx.a.rdS r = x.a.rdS r) ∧ u.cx.a.pc = x.a.pc)))
    ∧ ∀ (k : ClusterN) (pa : PAddr), mwf .zero s.ctxs = true → mwf .zero s.clusters = true →
      let l := pa.toNat / 64
      let wakes (m : CoreN) (e : Entry) : Entry :=
        if e.park = some l ∨ (l ∈ (s.cluster (m.toNat / 64)).mons ∧ e.unmon = true) then { e with woken := true } else e
      (s.cluster k.toNat).mons.contains l = true → Answers (.parkWake k pa) s fun u =>
        (∀ j, (u.cluster j).mons = (s.cluster j).mons.filter (· ≠ l)) ∧ u.mem = s.mem ∧ u.cregs = s.cregs
        ∧ ∀ m f, (u.ctx m f).a = (s.ctx m f).a ∧ (u.ctx m f).run = (s.ctx m f).run
          ∧ (u.ctx m f).lq = (s.ctx m f).lq.map (wakes m) ∧ (u.ctx m f).sq = (s.ctx m f).sq.map (wakes m)
          ∧ (u.ctx m f).rq = (s.ctx m f).rq.map (wakes m)

/-- R31, R127: an invalidation drops every covered translation of its die's walkers and sets BUSY, which clears once no covered store is on
its way. R128: a store of the replay queue whose page is valid again is performed at its new address and leaves the queue. R284: the fill of
a fetch miss puts the line, as memory holds it, into the fetch half. -/
def Obligations.InvalidationsAndFills : Prop :=
  ∀ (s : State) (d : DieN) (asid : BitVec 16) (vp : BitVec 36),
    let st := 0x7FFFF00000000 + d.toNat * 0x10000000 + 0x100008
    let drops (i : Instr) (hit : Tlb → Prop) : Prop := Answers i s fun u =>
      (∀ k, k / 4 = d.toNat → ∀ t, t ∈ (u.cluster k).tlb ↔ t ∈ (s.cluster k).tlb ∧ ¬hit t)
      ∧ (∀ k, k / 4 ≠ d.toNat → u.cluster k = s.cluster k) ∧ u.creg st = s.creg st ||| 1 ∧ u.mem = s.mem
      ∧ ∀ m f, (u.ctx m f).a = (s.ctx m f).a
    (mwf .zero s.ctxs = true → mwf .zero s.clusters = true →
      drops (.walkinvPage d asid vp) (fun t => t.asid = asid ∧ t.vbase ≤ vp.toNat * 4096 ∧ vp.toNat * 4096 < t.vbase + t.size)
      ∧ drops (.walkinvAsid d asid) (fun t => t.asid = asid) ∧ drops (.walkinvAll d) (fun _ => True))
    ∧ (let g := dieOf s.foc.core
       let b := 0x7FFFF00000000 + g * 0x10000000 + 0x100008
       (s.die g).invs ≠ [] → (∀ kv ∈ s.ctxs, ∀ e ∈ kv.2.sq ++ kv.2.rq, e.left = false) → exec .invalidationComplete s
        = .next ((s.setDie g { s.die g with invs := [] }).setCreg b (s.creg b &&& ~~~1)))
    ∧ (∀ (n : CoreN) (c : CtxN) (e : Entry) (p : Piece) (old : Tr) (t : Tlb),
        let x := s.ctx n c
        let va := p.ptr.toNat % 2 ^ 48
        let pa := t.pbase + (va - t.vbase)
        let q : Piece := { p with tr := some ⟨pa, t.mt, t.tc, t.size, false, false⟩ }
        x.rq = [e] → x.sqHold = none → x.dbg = false → mwf .zero s.ctxs = true → e.reported = false → e.kind = .st → e.left = false →
        e.pieces = [p] → p.tr = some old → old.marked = true → p.off = 0 → p.len = e.data.length → pa % 64 + p.len ≤ 64 →
        tlbFind (s.cluster (n.toNat / 64)).tlb x.asid va = some t → t.w = true → t.dirty = true →
        regionOf pa = .hbm → mget 0 s.ecc (pa / 64) = 0 → s.poisoned pa = false → (s.core n).cached pa = none →
        s.homeCheck (x.actor n c) q ⟨pa, t.mt, t.tc, t.size, false, false⟩ true = .ok →
        e.away = false → x.sq = [] → (∀ d, d ≠ c → ∀ f ∈ (s.ctx n d).sq ++ (s.ctx n d).rq, f.left = false) →
        let done (i : Instr) : Prop := Answers i s fun u => u.rdBytes pa p.len = e.data ∧ MemOutside s u pa p.len ∧ (u.ctx n c).rq = []
          ∧ u.cregs = s.cregs ∧ ∀ m f, (u.ctx m f).a = (s.ctx m f).a
        (e.woken = true → done (.replayRewalk n c 0)) ∧ (e.unmon = true → done (.replayRewalkTimer n c 0)))
    ∧ ∀ (line : Nat) (t : Tr) (ctl : Bool),
      let n := s.foc.core
      let x := s.cx
      x.fetchWait = some line → x.run = .live → x.fpark = none → trExt x.ext x.lw n (64 * line) 64 ⟨false, false, true⟩ = .hit t ctl →
      s.fetchable n t.pa = true → s.bankShut t.pa = false → mget 0 s.ecc (t.pa / 64) = 0 → mget false s.poison (t.pa / 64) = false → t.pa % 64 = 0 → Answers .instructionFetchFill s fun u =>
        u.cx = { x with fetchWait := none, fpark := none, fwoken := false } ∧ SameBut s u n s.foc.ctx ∧ u.mem = s.mem
        ∧ ∀ b < 64, ((u.core n).istoreAt (s.core n).fh x.asid line).map (lineByte · b) = some (s.rdByte (t.pa + b))

/-! ### Results, traps and issue (chapters 08, 10, 16) -/

/-- R196, R267: a result is held until its cycle and lands then; of two results due, the one due later is the one that stays. s0 and p0
keep their values. R391: what is pending at a checkpoint is pending again after a rollback to it, at its cycle counted from there, and nothing
else is. -/
def Obligations.ResultsLand : Prop :=
  (∀ (s : State) (lat : Nat) (ws : List Write),
    let x := s.cx
    let t := s.land lat ws
    t.cx.pend = x.pend ++ [⟨x.a.ctxtime.toNat + lat, x.seq, x.a.pc, s.foc.slot, x.a.rep.toNat, true, 0, ws⟩]
    ∧ t.cx.a = { x.a with ev := t.cx.a.ev } ∧ t.mem = s.mem ∧ t.cregs = s.cregs ∧ SameBut s t s.foc.core s.foc.ctx)
  ∧ (∀ (x : Ctx) (p q : Pend),
    let now := x.a.ctxtime.toNat
    let after (ws : List Write) : Arch := ws.foldl Arch.write x.a
    (x.pend = [] → x.landDue.a = x.a)
    ∧ (x.pend = [p] → now < p.due → x.landDue.a = x.a ∧ x.landDue.pend = [p])
    ∧ (x.pend = [p] → p.due ≤ now → x.landDue.a = after p.ws ∧ x.landDue.pend = [])
    ∧ (x.pend = [p, q] ∨ x.pend = [q, p] → p.due < q.due → q.due ≤ now → x.landDue.a = after (p.ws ++ q.ws) ∧ x.landDue.pend = []))
  ∧ (∀ (a : Arch) (r : Reg) (v : Word) (p : PReg) (b : Bool),
    (∀ j, (a.write (.s r.toNat v)).rdS j = if j = r.toNat ∧ r ≠ 0 then v else a.rdS j)
    ∧ (∀ j, (a.write (.p p.toNat b)).rdP j = if j = p.toNat ∧ p ≠ 0 then b else a.rdP j)
    ∧ a.write (.s r.toNat v) = { a with sr := (a.write (.s r.toNat v)).sr } ∧ a.write (.p p.toNat b) = { a with pr := (a.write (.p p.toNat b)).pr })
  ∧ ∀ x y : Ctx, y.ck = x.checkpoint.ck → y.ckPend = x.checkpoint.ckPend → y.rollback.pend = x.pend ∧ y.rollback.a.ctxtime = x.a.ctxtime

/-- R244, R245, R359: an operation on registers that may execute does, and traps nothing; one that may not execute writes nothing. One that breaks a rule of R244 stops the context as an illegal
bundle that names its slot; one whose tile is unconfigured or of a wrong shape raises the tile-configuration exception with the tile's code
and the reason in TRAPARG, which an installed handler that is not running takes. -/
def Obligations.IllegalOperations : Prop :=
  ∀ (s : State) (i : Instr), i.slotClass.isSome → s.cx.dbg = false →
    let x := s.cx
    let legal := opLegal x ((s.die (dieOf s.foc.core)).service = 1) i
    let kept (u : State) : Prop := u.mem = s.mem ∧ u.cx.pend = x.pend ∧ u.cx.lq = x.lq ∧ u.cx.pound = x.pound ∧ u.cx.sq = x.sq
      ∧ (∀ r, u.cx.a.rdS r = x.a.rdS r) ∧ u.cx.a.vr = x.a.vr ∧ u.cx.a.acc = x.a.acc ∧ SameBut s u s.foc.core s.foc.ctx
    let trapped (u : State) (cause : Nat) (arg : Word) (slot : Nat) : Prop := u.cx.a.trapcause.toNat % 2 ^ 20 = cause
      ∧ u.cx.a.traparg = arg ∧ u.cx.a.trappc = x.a.pc &&& 0xFFFFFFFFFFFC ∧ u.cx.a.trapslot = BitVec.ofNat 64 slot ∧ u.cx.a.donemask = 0
    (legal = true → tileFault x.a i = none →
      match i with
      | .add _ _ _ | .sub _ _ _ | .mul _ _ _ | .mulh _ _ _ | .mulhu _ _ _ | .div _ _ _ | .divu _ _ _ | .rem _ _ _ | .remu _ _ _ | .and _ _ _
      | .or _ _ _ | .xor _ _ _ | .andn _ _ _ | .shl _ _ _ | .shr _ _ _ | .sar _ _ _ | .min _ _ _ | .max _ _ _ | .minu _ _ _ | .maxu _ _ _
      | .clz _ _ | .popc _ _ | .ext _ _ _ _ _ | .sel _ _ _ _ _ | .adds _ _ _ _ | .setkey _ _ _ | .addi _ _ _ | .andi _ _ _ | .ori _ _ _
      | .xori _ _ _ | .shli _ _ _ | .shri _ _ _ | .sari _ _ _ | .movi _ _ | .lih _ _ _ | .cmp _ _ _ _ | .cmpi _ _ _ _ | .pand _ _ _ _ _
      | .por _ _ _ _ _ | .pxor _ _ _ _ _ | .pandn _ _ _ _ _ | .csrr _ _ | .lcw _ _ | .lcr _ _ | .br _ _ _ | .call _ _ _ | .jr _ | .callr _ | .ret
      | .loopn _ _ | .vadd _ | .vsub _ | .vmul _ | .vfma _ | .vfms _ | .vmin _ | .vmax _ | .vabs _ | .vneg _ | .vadds _ | .vsubs _ | .vmov _
      | .vmulh _ | .vand _ | .vor _ | .vxor _ | .vandn _ | .vshl _ | .vshr _ | .vsar _ | .vcmp _ | .vsel _ | .mand _ | .mor _ | .mxor _ | .mandn _
      | .mpop _ | .vcvt _ | .vqnt _ | .vdqnt _ | .vredsum _ | .vredmax _ | .vredmin _ | .vperm _ | .vbcast _ | .vbcastScalar _ | .vlane _
      | .vmovs _ | .vmovl _ | .vslide _ | .vzip _ | .vunzip _ | .vrcp _ | .vrsqrt _ | .vexp2 _ | .vlog2 _ | .vtanh _ | .vrng _ | .mma _ | .mmas _
      | .tadd _ | .tscl _ | .tcvt _ | .tqnt _ | .tcmpr _ | .tdcmp _ | .tmov _ | .mkat _ _ _ | .sld _ | .trw _ | .trr _ | .tcw _ | .tcr _
      | .tzero _ | .brd _ | .bwr _ | .bchk _ | .bclr _ | .sgrd _ | .sgclr _ | .kwr _ | .krd _ =>
          Answers i s fun u => u.foc = s.foc ∧ u.mem = s.mem ∧ u.dies = s.dies ∧ SameBut s u s.foc.core s.foc.ctx
      | _ => True)
    ∧ (legal = false → Answers i s fun u => u.cx.run = .stopped ∧ trapped u 0x40001 0 s.foc.slot.idx ∧ u.cx.a.pc = x.a.pc ∧ kept u)
    ∧ ∀ t r, legal = true → tileFault x.a i = some (t, r) → Answers i s fun u =>
        trapped u 0x40002 (BitVec.ofNat 64 (t + 16 * r)) s.foc.slot.idx ∧ kept u
        ∧ (x.a.trapvec.getLsbD 0 = true → x.a.ctxmode.getLsbD 0 = false →
          u.cx.run = x.run ∧ u.cx.a.ctxmode = 1 ∧ u.cx.a.pc = x.a.trapvec &&& 0xFFFFFFFFFFFC)
        ∧ (x.a.trapvec.getLsbD 0 = false ∨ x.a.ctxmode.getLsbD 0 = true → u.cx.run = .stopped ∧ u.cx.a.pc = x.a.pc)

/-- R199, R242, R265, R281: BUNDLE_ISSUE is a core cycle. Where one context is resident and ready it issues, and the core's cycle count
advances. The end of an issue advances the context's time by one; it stays at its bundle while REP asks for more, and goes on to the
transfer's target or the next bundle. In an active nest the place in the body moves on, and after the last bundle of the body the lowest
dimension that has not come to its bound counts up, those below it start again at 0, and the body is issued again; where there is none the
nest has ended, with its indices 0. A bundle that breaks a rule of R244 stops the context with the slot named. That the model steps
one core at a time, each with its own count, is its choice (log entry 49). -/
def Obligations.BundleIssue : Prop :=
  ∀ (s : State) (n : CoreN) (c : CtxN),
    let x := s.ctx n c
    (s.foc.core = n → mwf .zero s.ctxs = true → (∀ d, d ≠ c → s.ctx n d = .zero) → x.post = none → x.monwait = none →
      x.yieldAt = none → x.yieldSet = [] →
      (s.creg (0x7FFFF00000000 + n.toNat / 256 * 0x10000000 + 0x580040 + 0x80 * (n.toNat % 256))).toNat % 2 ^ 32 = 0 → (∀ p ∈ x.pend ++ x.ckPend, p.ready ≠ 0 → p.arrived = true) → s.ready n c = true → (s.creg 0x7FFFF00700018).getLsbD 16 = false →
      let t := (s.setCtx n c { x with wdCnt := x.wdCnt + 1, readyFor := 0 }).issueCtx n c
      exec .bundleIssue s = .next { t.setCore n { t.core n with cyc := (t.core n).cyc + 1, last := c.toNat, lastRan := true } with
        foc := ⟨n, s.foc.ctx, .A, false⟩ })
    ∧ (∀ p : Plan, x.post = none → x.dbg = false → x.owed = 0 →
      let y := (s.endIssue n c p).ctx n c
      let a := { x.a with rep := 0, pc := x.tgt.getD x.npc, ctxtime := x.a.ctxtime + 1 }
      (x.a.rep.toNat < hRep p.b.hdr → y.a = { x.a with rep := x.a.rep + 1, ctxtime := x.a.ctxtime + 1 })
      ∧ (hRep p.b.hdr ≤ x.a.rep.toNat → y.tgt = none ∧ (p.pos = none → y.a = a)
        ∧ ∀ j, p.pos = some j →
          (hE p.b.hdr = false → y.a = { a with lpos := BitVec.ofNat 4 (j + 1) })
          ∧ (hE p.b.hdr = true →
            let up (d : Nat) : BitVec 32 := mget 0 x.a.lc d + 1
            let full (d : Nat) : Prop := ∀ i < d, mget 0 x.a.lbnd i ≤ up i
            (∀ d < x.a.dims.toNat, full d → up d < mget 0 x.a.lbnd d → ∃ l, y.a = { a with pc := x.a.body, lpos := 0, lc := l }
              ∧ ∀ i, mget 0 l i = if i < d then 0 else if i = d then up d else mget 0 x.a.lc i)
            ∧ (full x.a.dims.toNat → ∃ l, y.a = { a with dims := 0, lc := l }
              ∧ ∀ i, mget 0 l i = if i < x.a.dims.toNat then 0 else mget 0 x.a.lc i)))
      ∧ (s.endIssue n c p).mem = s.mem ∧ SameBut s (s.endIssue n c p) n c)
    ∧ ∀ (p : Plan) (slot : Nat), slot ≤ 7 → x.dbg = false → x.haltReq = false → x.stepDue = false → x.taken = 0 → x.opened = false → x.pend = [] →
        s.plan n c = .ok p → p.bad = some slot → mwf .zero s.ctxs = true → x ≠ .zero →
        let u := s.issueCtx n c
        (u.ctx n c).run = .stopped ∧ (u.ctx n c).a.trapcause.toNat % 2 ^ 20 = 0x40001 ∧ (u.ctx n c).a.trapslot = BitVec.ofNat 64 slot
        ∧ (u.ctx n c).a.trappc = x.a.pc &&& 0xFFFFFFFFFFFC ∧ (u.ctx n c).a.pc = x.a.pc ∧ (u.ctx n c).pend = [] ∧ u.mem = s.mem

/-! ### Decoding, the step, reset and the invariant -/

/-- R251, R253, R255, R257, R259: words written out field by field from the encodings decode to the instruction they stand for. A sanity
statement. -/
def Obligations.DecodeWords : Prop :=
  decodeWord .scalar 0b0000000_000101_111110_100001_0000000 Pfx.none = some (.add 5 62 33)
  ∧ decodeWord .scalar 0b0010110_000101_111110_100001_1_010111 Pfx.none = some (.ext 5 62 33 23 true)
  ∧ decodeWord .scalar 0b0110001_1001_0110_111110_10000011000 Pfx.none = some (.cmpi 9 6 62 (-1000))
  ∧ decodeWord .scalar 0b1000001_000000_111110_0000001001111 Pfx.none = some (.csrw 0x4F 62)
  ∧ decodeWord .scalar 0b1010000_1001_1_11111111111111111101 Pfx.none = some (.br 9 true (-3))
  ∧ decodeWord .scalar 0b1010101_1111101000_110_000000000000 Pfx.none = some (.loopn 1000 6)
  ∧ decodeWord .vector 0b0000011_1000_101_1_1_0000000001_0000000010_0000000011_1111111111_111_00000 Pfx.none = some (.vfma ⟨8, 5, true, true, 1, 2, 3, 1023, 7, 0, none⟩)
  ∧ decodeWord .vector 0b0011000_1000_101_1_0_0000000111_0000000010_0000000011_0000000000_111_10110 Pfx.none = some (.vcmp ⟨8, 5, true, false, 7, 2, 3, 0, 7, 22, none⟩)
  ∧ decodeWord .matrix 0b0000000_1011_1101_1_11_110_101_1110_1001_1111_000000000101_0000000000000000 Pfx.none = some (.mma ⟨11, 13, true, 3, 6, 5, 14, 9, 15, 5, 0, none⟩)
  ∧ decodeWord .matrix 0b0010001_1011_1000_0_00_110_101_1110_0000_0111_000000000000_0000000000000000 Pfx.none = some (.tqnt ⟨11, 8, false, 0, 6, 5, 14, 0, 7, 0, 0, none⟩)
  ∧ decodeWord .memory 0b0000000_0110_01_100_0000111111_111110_100001_000_0_11_0000_1000000000000100 Pfx.none = some (.ld ⟨6, 1, 4, 63, 62, 33, 0, false, 3, 0, (-32764), none⟩)
  ∧ decodeWord .memory 0b0000110_0001_00_000_1111111111_111110_000000_111_1_11_0000_1000000000000100 Pfx.none = some (.vgath ⟨1, 0, 0, 1023, 62, 0, 7, true, 3, 0, (-32764), none⟩)
  ∧ decodeWord .memory 0b0011000_0010_11_100_0000111111_111110_100001_000_0_10_1000_1000000000000100 Pfx.none = some (.atom ⟨2, 3, 4, 63, 62, 33, 0, false, 2, 8, (-32764), none⟩)
  ∧ decodeWord .aux 0b0001011_1111111110_1011_11111_111110 Pfx.none = some (.tcr ⟨1022, 11, 31, 62⟩)
  ∧ decodeWord .aux 0b0000000_1111111110_1111_00100_111110 Pfx.none = some (.sld ⟨1022, 15, 4, 62⟩)

/-- R236 to R259: every operand bit of an encodable instruction is in its word or its prefixes, and decoding reads it back. -/
def Obligations.EncodeRoundTrip : Prop :=
  ∀ (i : Instr) (c : SlotClass), i.slotClass = some c → i.wf = true → i.dispFits = true →
    decodeWord c (encode i).1 (encode i).2 = some i

/-- A step runs the instruction that is next: the one the outside world has asked for, else the work of the core in focus (log entry 1). The
operation of a slot in mode new is the one its word and prefixes decode to, and an issue runs exec of it. No instruction stops the machine:
each answers a next state. R240: a live slot in mode again, or in mode new at a later issue, steps its sticky state by its step count and issues
that; one in mode nudge steps by its nibble at every issue, and a slot with no live state is illegal there; a slot at rest issues nothing and
is live no more. R264: in a body bundle the word of a slot in mode new is stepped by the indices of the nest. R241: a step adds to each
field that is enabled, modulo the registers of its kind, or to the displacement, and to nothing else. That a VC or KB which the operation does not
use stays zero is the model's choice (log entry 105). -/
def Obligations.StepRunsInstruction : Prop :=
  (∀ (s : State) (f : Focus) (i : Instr) (l : List (Focus × Instr)), s.agenda = (f, i) :: l →
      step s = exec i { s with agenda := l, foc := f })
  ∧ (∀ (s : State) (i : Instr), ∃ t, exec i s = .next t)
  ∧ (∀ s : State, s.agenda = [] → (∀ a ∈ s.work, s.changes a = false) → step s = exec .bundleIssue s)
  ∧ (∀ (s : State) (a : Focus × Instr), s.agenda = [] → s.work.find? s.changes = some a → step s = exec a.2 { s with foc := a.1 })
  ∧ (∀ (s : State) (i : Instr), i.slotClass.isSome → issueOp i s = exec i s)
  ∧ (∀ (x : Ctx) (b : Bundle) (t : Slot) (w : BitVec 64) (reduced : Bool), hMode b.hdr t = 2 → b.pfx.length ≤ 2 →
      b.words.find? (fun q => q.1 == t) = some (t, w) →
      (planSlot x b 0 false reduced t).op = decodeWord t.cls w (pfxAt b.pfx t))
  ∧ (∀ (x : Ctx) (b : Bundle) (k : Nat) (body reduced : Bool) (t : Slot),
      let old := mget Sticky.rest x.a.sticky t.idx
      let p := planSlot x b k body reduced t
      let issues (q : Sticky) (d : Int) : Prop :=
        let r := { q with word := (advanceWord t q.word q.disp d).1, disp := (advanceWord t q.word q.disp d).2 }
        p.op = r.decode t ∧ ∀ i, p.op = some i → p.st = if i.isControl then Sticky.rest else r
      (hMode b.hdr t = 1 → p.op = none ∧ p.st = Sticky.rest)
      ∧ (hMode b.hdr t = 3 → old.live = true → issues old (hNudge b.hdr t).toInt)
      ∧ (hMode b.hdr t = 3 → old.live = false → p.op = none ∧ p.bad = true)
      ∧ (hMode b.hdr t = 0 ∨ (hMode b.hdr t = 2 ∧ k ≠ 0) → old.live = true → issues old old.step.toInt)
      ∧ (hMode b.hdr t = 0 ∨ (hMode b.hdr t = 2 ∧ k ≠ 0) → old.live = false → p.op = none ∧ p.st = old)
      ∧ ∀ w i, hMode b.hdr t = 2 → k = 0 → body = true → b.words.find? (fun q => q.1 == t) = some (t, w) →
        let q := Sticky.ofWord t w b.pfx (hNudge b.hdr t)
        q.decode t = some i → x.a.dims.toNat ≤ 6 → q.live = true ∧ q.word = w ∧ q.step = hNudge b.hdr t ∧ issues q ((hNudge b.hdr t).toInt * (mget 0 x.a.lc 0).toNat
          + ((List.range 5).map fun d => if d + 1 < x.a.dims.toNat
              then (mget 0 x.a.lstr (5 * (t.idx - 2) + d)).toInt * ((mget 0 x.a.lc (d + 1)).toNat : Int) else 0).sum))
  ∧ (∀ (t : Slot) (w : BitVec 64) (disp : Word) (d : Int),
      let r := advanceWord t w disp d
      let op := (w.extractLsb' 57 7).toNat
      let at' (v : BitVec 64) (lo len : Nat) : Nat := (v.extractLsb' lo len).toNat
      let steps (lo len md : Nat) (on : Prop) : Prop :=
        (on → (at' r.1 lo len : Int) = ((at' w lo len : Int) + d) % (md : Int)) ∧ (¬on → at' r.1 lo len = at' w lo len)
      let same (l : List (Nat × Nat)) : Prop := ∀ i < 64, (∀ q ∈ l, i < q.1 ∨ q.1 + q.2 ≤ i) → r.1.getLsbD i = w.getLsbD i
      (t = .V ∨ t = .W → r.2 = disp ∧ same [(38, 10), (28, 10), (18, 10), (8, 10)]
        ∧ steps 38 10 (if op = 0x18 then 8 else if op = 0x33 then 64 else 1024) (w.getLsbD 7 = true)
        ∧ steps 8 10 1024 (w.getLsbD 7 = true ∧ (op = 3 ∨ op = 4)) ∧ steps 28 10 1024 (w.getLsbD 6 = true)
        ∧ steps 18 10 (vbMod w op) (w.getLsbD 5 = true))
      ∧ (t = .M → op ≠ 0x30 → r.2 = disp ∧ same [(46, 2), (43, 3), (40, 3), (36, 4), (32, 4)]
        ∧ steps 46 2 4 (w.getLsbD 31 = true) ∧ steps 43 3 8 (w.getLsbD 30 = true) ∧ steps 40 3 8 (w.getLsbD 29 = true)
        ∧ steps 36 4 16 (w.getLsbD 28 = true) ∧ steps 32 4 16 (w.getLsbD 28 = true ∧ op ≤ 1))
      ∧ (t = .L →
        r.2 = disp + (if w.getLsbD 21 then BitVec.ofInt 64 (d * if op ≤ 1 ∨ op = 8 ∨ op = 0x18 ∨ op = 0x24 then laneBytes (w.extractLsb' 53 4) else 64) else 0)
        ∧ (let on : Prop := w.getLsbD 20 = true
           (op = 2 ∨ op = 3 ∨ op = 4 ∨ op = 5 ∨ op = 6 ∨ op = 7 ∨ op = 9 ∨ op = 0x22 → same [(38, 10)] ∧ steps 38 10 1024 on)
           ∧ (op = 0x30 ∨ op = 0x31 ∨ op = 0x35 → same [(38, 4)] ∧ (at' w 38 4 < 8 → steps 38 4 8 on)
             ∧ (8 ≤ at' w 38 4 → on → (at' r.1 38 4 : Int) = 8 + ((at' w 38 4 : Int) - 8 + d) % 4))
           ∧ (op = 0 ∨ op = 1 ∨ op = 8 ∨ op = 0x18 ∨ op = 0x24 → same [(38, 6)] ∧ steps 38 6 64 on)
           ∧ (¬on → r.1 = w)))
      ∧ (t = .A ∨ t = .B ∨ t = .X ∨ (t = .M ∧ op = 0x30) → r = (w, disp)))
  ∧ ∀ (s t : State) (n : CoreN) (c : CtxN) (q : PSlot) (i : Instr), q.op = some i → i.slotClass.isSome → irrevocable i = false →
      q.slot ≠ .L → q.slot ≠ .M →
      exec i (({ s with foc := ⟨n, c, q.slot, false⟩ } : State).mapArch n c fun a =>
        { a with sticky := mset Sticky.rest a.sticky q.slot.idx q.st }) = .next t →
      t.foc.trapped = false →
      s.issueSlot n c q = (t.setCtx n c { t.ctx n c with seq := (t.ctx n c).seq + 1 }, true)

/-- What reset leaves: every context slot vacant (R195), every bank a scratchpad (R46), the registers of the map at the values that their
rules give, memory with nothing listed, and every map in its canonical form. That the registers without a reset value are 0 and memory that
nothing has written reads 0 is the model's choice (log entries 2 to 6). -/
def Obligations.ResetValues : Prop :=
  let s := State.reset
  (∀ n c, (s.ctx n c).run = .vacant ∧ (s.ctx n c).a.bthr = 0x28000F0 ∧ (s.ctx n c).a.waitctl = 0x4000 ∧ (s.ctx n c).a.ctxmode = 0
    ∧ (s.ctx n c).a.ton = false)
  ∧ (∀ n b, bankMode (s.core n) b = 0) ∧ (∀ a, s.rdByte a = 0)
  ∧ s.creg 0x7FFFF00700010 = 4000
  ∧ (∀ d : DieN, let at' (off : Nat) : Nat := 0x7FFFF00000000 + d.toNat * 0x10000000 + off
      s.creg (at' 0x300000) = 4 ∧ s.creg (at' 0x100028) = 0x100000
      ∧ ∀ k < 16, s.creg (at' (0x600000 + 0x40 * k + 0x18)) = 0x80)
  ∧ (∀ n : CoreN, s.creg (0x7FFFF00000000 + n.toNat / 256 * 0x10000000 + 0x200000 + 0x40 * (n.toNat % 256)) = 0x400002)
  ∧ (∀ j : SillN, s.creg (0x7FFFF80000000 + j.toNat * 0x8000000 + 0x2000) = 1)
  ∧ s.Inv

/-- Whatever the state, a step keeps every map of it in its canonical form: keys strictly rising and no entry at its default, so that equal
memories and registers are equal data. -/
def Obligations.InvariantKept : Prop :=
  ∀ s t : State, s.Inv → step s = .next t → t.Inv
end

