-- ==== Sys2Proof/Laws/SMap.lean ====
section
/-! SUPPORT. The laws of sparse maps: what a read gives after a write, and that writes keep the canonical form. -/

namespace Sys2Proof.Machine

variable {α : Type} [DecidableEq α]

omit [DecidableEq α] in
@[simp] theorem mget_nil (d : α) (k : Nat) : mget d [] k = d := rfl

omit [DecidableEq α] in
theorem mget_mput (d : α) (m : SMap α) (k j : Nat) (v : α) : mget d (mput m k v) j = if j = k then v else mget d m j := by
  induction m with
  | nil => simp only [mput, mget, eq_comm]
  | cons p t ih =>
    obtain ⟨k', v'⟩ := p
    simp only [mput]
    split
    · simp only [mget, eq_comm (a := j) (b := k)]
    · split
      · simp only [mget, eq_comm (a := j) (b := k)]
        split <;> first | rfl | (split <;> first | rfl | omega)
      · simp only [mget, ih]
        split <;> split <;> first | rfl | omega

omit [DecidableEq α] in
theorem mget_mdel (d : α) (m : SMap α) (k j : Nat) : mget d (mdel m k) j = if j = k then d else mget d m j := by
  induction m with
  | nil => simp [mdel, mget]
  | cons p t ih =>
    obtain ⟨k', v'⟩ := p
    simp only [mdel]
    split
    · rw [ih]
      simp only [mget]
      split <;> first | rfl | (split <;> first | rfl | omega)
    · simp only [mget, ih]
      split <;> split <;> first | rfl | omega

/-- A read after a write: the value written at its key, the old value elsewhere. -/
theorem mget_mset (d : α) (m : SMap α) (k j : Nat) (v : α) : mget d (mset d m k v) j = if j = k then v else mget d m j := by
  unfold mset
  split
  · rename_i h
    rw [mget_mdel, h]
  · exact mget_mput d m k j v

@[simp] theorem mget_mset_self (d : α) (m : SMap α) (k : Nat) (v : α) : mget d (mset d m k v) k = v := by
  rw [mget_mset, if_pos rfl]

theorem mget_mset_ne (d : α) (m : SMap α) {k j : Nat} (v : α) (h : j ≠ k) : mget d (mset d m k v) j = mget d m j := by
  rw [mget_mset, if_neg h]

/-- The same for a read with another default. -/
theorem mget_mset_other (d d' : α) (m : SMap α) {k j : Nat} (v : α) (h : j ≠ k) : mget d' (mset d m k v) j = mget d' m j := by
  unfold mset
  split
  · rw [mget_mdel, if_neg h]
  · rw [mget_mput, if_neg h]

/-! ### The canonical form -/

theorem mwfFrom_le (d : α) {a b : Nat} (h : a ≤ b) : ∀ m : SMap α, mwfFrom d b m = true → mwfFrom d a m = true
  | [], _ => rfl
  | (k, v) :: t, w => by
    simp only [mwfFrom, Bool.and_eq_true, decide_eq_true_eq] at w ⊢
    exact ⟨⟨by omega, w.1.2⟩, w.2⟩

theorem mwfFrom_mput (d : α) (k : Nat) (v : α) (hv : v ≠ d) :
    ∀ (m : SMap α) (lo : Nat), lo ≤ k → mwfFrom d lo m = true → mwfFrom d lo (mput m k v) = true
  | [], lo, h, _ => by simp [mput, mwfFrom, h, hv]
  | (k', v') :: t, lo, h, w => by
    simp only [mwfFrom, Bool.and_eq_true, decide_eq_true_eq] at w
    unfold mput
    split
    · simp only [mwfFrom, Bool.and_eq_true, decide_eq_true_eq, bne_iff_ne]
      exact ⟨⟨h, hv⟩, ⟨by omega, by simpa using w.1.2⟩, w.2⟩
    · split
      · rename_i e
        subst e
        simp only [mwfFrom, Bool.and_eq_true, decide_eq_true_eq, bne_iff_ne]
        exact ⟨⟨h, hv⟩, w.2⟩
      · simp only [mwfFrom, Bool.and_eq_true, decide_eq_true_eq]
        exact ⟨w.1, mwfFrom_mput d k v hv t (k' + 1) (by omega) w.2⟩

theorem mwfFrom_mdel (d : α) (k : Nat) : ∀ (m : SMap α) (lo : Nat), mwfFrom d lo m = true → mwfFrom d lo (mdel m k) = true
  | [], _, _ => rfl
  | (k', v') :: t, lo, w => by
    simp only [mwfFrom, Bool.and_eq_true, decide_eq_true_eq] at w
    unfold mdel
    split
    · exact mwfFrom_le d (by omega) _ (mwfFrom_mdel d k t (k' + 1) w.2)
    · simp only [mwfFrom, Bool.and_eq_true, decide_eq_true_eq]
      exact ⟨w.1, mwfFrom_mdel d k t (k' + 1) w.2⟩

/-- A write keeps the canonical form. -/
theorem mwf_mset (d : α) (m : SMap α) (k : Nat) (v : α) (h : mwf d m = true) : mwf d (mset d m k v) = true := by
  unfold mset mwf
  split
  · exact mwfFrom_mdel d k m 0 h
  · exact mwfFrom_mput d k v ‹_› m 0 (Nat.zero_le k) h

theorem mwfFrom_filter (d : α) (p : Nat × α → Bool) :
    ∀ (m : SMap α) (lo : Nat), mwfFrom d lo m = true → mwfFrom d lo (m.filter p) = true
  | [], _, _ => rfl
  | (k, v) :: t, lo, w => by
    simp only [mwfFrom, Bool.and_eq_true, decide_eq_true_eq] at w
    unfold List.filter
    split
    · simp only [mwfFrom, Bool.and_eq_true, decide_eq_true_eq]
      exact ⟨w.1, mwfFrom_filter d p t (k + 1) w.2⟩
    · exact mwfFrom_le d (by omega) _ (mwfFrom_filter d p t (k + 1) w.2)

/-- Taking entries out keeps the canonical form. -/
theorem mwf_filter (d : α) (m : SMap α) (p : Nat × α → Bool) (h : mwf d m = true) : mwf d (m.filter p) = true :=
  mwfFrom_filter d p m 0 h

theorem mwf_msets (d : α) (l : List (Nat × α)) : ∀ m : SMap α, mwf d m = true → mwf d (msets d m l) = true := by
  induction l with
  | nil => exact fun m h => h
  | cons p t ih => exact fun m h => ih _ (mwf_mset d m p.1 p.2 h)

/-! ### Keys that rise, whatever the values -/

theorem mem_mput {k : Nat} {v : α} {q : Nat × α} : ∀ {m : SMap α}, q ∈ mput m k v → q = (k, v) ∨ q ∈ m
  | [], h => by simpa [mput] using h
  | (k', v') :: t, h => by
    unfold mput at h
    split at h
    · exact (List.mem_cons.mp h).imp_right id
    · split at h
      · exact (List.mem_cons.mp h).imp_right (List.mem_cons_of_mem _)
      · rcases List.mem_cons.mp h with rfl | h
        · exact .inr (List.mem_cons_self ..)
        · exact (mem_mput h).imp_right (List.mem_cons_of_mem _)

theorem mem_mdel {k : Nat} {q : Nat × α} : ∀ {m : SMap α}, q ∈ mdel m k → q ∈ m
  | (k', v') :: t, h => by
    unfold mdel at h
    split at h
    · exact List.mem_cons_of_mem _ (mem_mdel h)
    · rcases List.mem_cons.mp h with rfl | h
      · exact List.mem_cons_self ..
      · exact List.mem_cons_of_mem _ (mem_mdel h)

/-- The keys of a map rise strictly. -/
theorem rises_mput (k : Nat) (v : α) : ∀ m : SMap α, (m.map (·.1)).Pairwise (· < ·) → ((mput m k v).map (·.1)).Pairwise (· < ·)
  | [], _ => by simp [mput]
  | (k', v') :: t, h => by
    rw [List.map_cons, List.pairwise_cons] at h
    unfold mput
    split
    · rename_i lt
      rw [List.map_cons, List.map_cons, List.pairwise_cons, List.pairwise_cons]
      refine ⟨fun a ha => ?_, h⟩
      rcases List.mem_cons.mp ha with rfl | ha
      · exact lt
      · exact Nat.lt_trans lt (h.1 a ha)
    · split
      · rename_i e
        subst e
        rw [List.map_cons, List.pairwise_cons]
        exact h
      · rename_i nlt ne
        rw [List.map_cons, List.pairwise_cons]
        refine ⟨fun a ha => ?_, rises_mput k v t h.2⟩
        obtain ⟨q, hq, rfl⟩ := List.mem_map.mp ha
        rcases mem_mput hq with rfl | hq
        · exact Nat.lt_of_le_of_ne (Nat.le_of_not_lt nlt) (Ne.symm ne)
        · exact h.1 _ (List.mem_map_of_mem hq)

theorem rises_mdel (k : Nat) : ∀ m : SMap α, (m.map (·.1)).Pairwise (· < ·) → ((mdel m k).map (·.1)).Pairwise (· < ·)
  | [], _ => by simp [mdel]
  | (k', v') :: t, h => by
    rw [List.map_cons, List.pairwise_cons] at h
    unfold mdel
    split
    · exact rises_mdel k t h.2
    · rw [List.map_cons, List.pairwise_cons]
      refine ⟨fun a ha => ?_, rises_mdel k t h.2⟩
      obtain ⟨q, hq, rfl⟩ := List.mem_map.mp ha
      exact h.1 _ (List.mem_map_of_mem (mem_mdel hq))

end Sys2Proof.Machine
end

