-- ==== Sys2Proof/Laws/State.lean ====
section
/-! SUPPORT. What each update of a part of the state leaves of every field and of every other part. -/

namespace Sys2Proof.Machine


/-! ### setCtx -/

@[simp] theorem State.setCtx_mem (s : State) (n : CoreN) (c : CtxN) (x : Ctx) : (s.setCtx n c x).mem = s.mem := rfl
@[simp] theorem State.setCtx_gran (s : State) (n : CoreN) (c : CtxN) (x : Ctx) : (s.setCtx n c x).gran = s.gran := rfl
@[simp] theorem State.setCtx_poison (s : State) (n : CoreN) (c : CtxN) (x : Ctx) : (s.setCtx n c x).poison = s.poison := rfl
@[simp] theorem State.setCtx_ecc (s : State) (n : CoreN) (c : CtxN) (x : Ctx) : (s.setCtx n c x).ecc = s.ecc := rfl
@[simp] theorem State.setCtx_l2 (s : State) (n : CoreN) (c : CtxN) (x : Ctx) : (s.setCtx n c x).l2 = s.l2 := rfl
@[simp] theorem State.setCtx_cregs (s : State) (n : CoreN) (c : CtxN) (x : Ctx) : (s.setCtx n c x).cregs = s.cregs := rfl
@[simp] theorem State.setCtx_llcOld (s : State) (n : CoreN) (c : CtxN) (x : Ctx) : (s.setCtx n c x).llcOld = s.llcOld := rfl
@[simp] theorem State.setCtx_cores (s : State) (n : CoreN) (c : CtxN) (x : Ctx) : (s.setCtx n c x).cores = s.cores := rfl
@[simp] theorem State.setCtx_clusters (s : State) (n : CoreN) (c : CtxN) (x : Ctx) : (s.setCtx n c x).clusters = s.clusters := rfl
@[simp] theorem State.setCtx_engines (s : State) (n : CoreN) (c : CtxN) (x : Ctx) : (s.setCtx n c x).engines = s.engines := rfl
@[simp] theorem State.setCtx_dies (s : State) (n : CoreN) (c : CtxN) (x : Ctx) : (s.setCtx n c x).dies = s.dies := rfl
@[simp] theorem State.setCtx_pkg (s : State) (n : CoreN) (c : CtxN) (x : Ctx) : (s.setCtx n c x).pkg = s.pkg := rfl
@[simp] theorem State.setCtx_agenda (s : State) (n : CoreN) (c : CtxN) (x : Ctx) : (s.setCtx n c x).agenda = s.agenda := rfl
@[simp] theorem State.setCtx_foc (s : State) (n : CoreN) (c : CtxN) (x : Ctx) : (s.setCtx n c x).foc = s.foc := rfl
@[simp] theorem State.setCtx_freeCtr (s : State) (n : CoreN) (c : CtxN) (x : Ctx) : (s.setCtx n c x).freeCtr = s.freeCtr := rfl
@[simp] theorem State.core_setCtx (s : State) (n : CoreN) (c : CtxN) (x : Ctx) (m : CoreN) : (s.setCtx n c x).core m = s.core m := rfl
@[simp] theorem State.die_setCtx (s : State) (n : CoreN) (c : CtxN) (x : Ctx) (m : Nat) : (s.setCtx n c x).die m = s.die m := rfl
@[simp] theorem State.cluster_setCtx (s : State) (n : CoreN) (c : CtxN) (x : Ctx) (m : Nat) : (s.setCtx n c x).cluster m = s.cluster m := rfl
@[simp] theorem State.engine_setCtx (s : State) (n : CoreN) (c : CtxN) (x : Ctx) (m : Nat) : (s.setCtx n c x).engine m = s.engine m := rfl
@[simp] theorem State.creg_setCtx (s : State) (n : CoreN) (c : CtxN) (x : Ctx) (m : Nat) : (s.setCtx n c x).creg m = s.creg m := rfl
@[simp] theorem State.rdByte_setCtx (s : State) (n : CoreN) (c : CtxN) (x : Ctx) (m : Nat) : (s.setCtx n c x).rdByte m = s.rdByte m := rfl

/-! ### setCx -/

@[simp] theorem State.setCx_mem (s : State) (x : Ctx) : (s.setCx x).mem = s.mem := rfl
@[simp] theorem State.setCx_gran (s : State) (x : Ctx) : (s.setCx x).gran = s.gran := rfl
@[simp] theorem State.setCx_poison (s : State) (x : Ctx) : (s.setCx x).poison = s.poison := rfl
@[simp] theorem State.setCx_ecc (s : State) (x : Ctx) : (s.setCx x).ecc = s.ecc := rfl
@[simp] theorem State.setCx_l2 (s : State) (x : Ctx) : (s.setCx x).l2 = s.l2 := rfl
@[simp] theorem State.setCx_cregs (s : State) (x : Ctx) : (s.setCx x).cregs = s.cregs := rfl
@[simp] theorem State.setCx_llcOld (s : State) (x : Ctx) : (s.setCx x).llcOld = s.llcOld := rfl
@[simp] theorem State.setCx_cores (s : State) (x : Ctx) : (s.setCx x).cores = s.cores := rfl
@[simp] theorem State.setCx_clusters (s : State) (x : Ctx) : (s.setCx x).clusters = s.clusters := rfl
@[simp] theorem State.setCx_engines (s : State) (x : Ctx) : (s.setCx x).engines = s.engines := rfl
@[simp] theorem State.setCx_dies (s : State) (x : Ctx) : (s.setCx x).dies = s.dies := rfl
@[simp] theorem State.setCx_pkg (s : State) (x : Ctx) : (s.setCx x).pkg = s.pkg := rfl
@[simp] theorem State.setCx_agenda (s : State) (x : Ctx) : (s.setCx x).agenda = s.agenda := rfl
@[simp] theorem State.setCx_foc (s : State) (x : Ctx) : (s.setCx x).foc = s.foc := rfl
@[simp] theorem State.setCx_freeCtr (s : State) (x : Ctx) : (s.setCx x).freeCtr = s.freeCtr := rfl
@[simp] theorem State.core_setCx (s : State) (x : Ctx) (m : CoreN) : (s.setCx x).core m = s.core m := rfl
@[simp] theorem State.die_setCx (s : State) (x : Ctx) (m : Nat) : (s.setCx x).die m = s.die m := rfl
@[simp] theorem State.cluster_setCx (s : State) (x : Ctx) (m : Nat) : (s.setCx x).cluster m = s.cluster m := rfl
@[simp] theorem State.engine_setCx (s : State) (x : Ctx) (m : Nat) : (s.setCx x).engine m = s.engine m := rfl
@[simp] theorem State.creg_setCx (s : State) (x : Ctx) (m : Nat) : (s.setCx x).creg m = s.creg m := rfl
@[simp] theorem State.rdByte_setCx (s : State) (x : Ctx) (m : Nat) : (s.setCx x).rdByte m = s.rdByte m := rfl

/-! ### setCore -/

@[simp] theorem State.setCore_mem (s : State) (n : CoreN) (x : Core) : (s.setCore n x).mem = s.mem := rfl
@[simp] theorem State.setCore_gran (s : State) (n : CoreN) (x : Core) : (s.setCore n x).gran = s.gran := rfl
@[simp] theorem State.setCore_poison (s : State) (n : CoreN) (x : Core) : (s.setCore n x).poison = s.poison := rfl
@[simp] theorem State.setCore_ecc (s : State) (n : CoreN) (x : Core) : (s.setCore n x).ecc = s.ecc := rfl
@[simp] theorem State.setCore_l2 (s : State) (n : CoreN) (x : Core) : (s.setCore n x).l2 = s.l2 := rfl
@[simp] theorem State.setCore_cregs (s : State) (n : CoreN) (x : Core) : (s.setCore n x).cregs = s.cregs := rfl
@[simp] theorem State.setCore_llcOld (s : State) (n : CoreN) (x : Core) : (s.setCore n x).llcOld = s.llcOld := rfl
@[simp] theorem State.setCore_ctxs (s : State) (n : CoreN) (x : Core) : (s.setCore n x).ctxs = s.ctxs := rfl
@[simp] theorem State.setCore_clusters (s : State) (n : CoreN) (x : Core) : (s.setCore n x).clusters = s.clusters := rfl
@[simp] theorem State.setCore_engines (s : State) (n : CoreN) (x : Core) : (s.setCore n x).engines = s.engines := rfl
@[simp] theorem State.setCore_dies (s : State) (n : CoreN) (x : Core) : (s.setCore n x).dies = s.dies := rfl
@[simp] theorem State.setCore_pkg (s : State) (n : CoreN) (x : Core) : (s.setCore n x).pkg = s.pkg := rfl
@[simp] theorem State.setCore_agenda (s : State) (n : CoreN) (x : Core) : (s.setCore n x).agenda = s.agenda := rfl
@[simp] theorem State.setCore_foc (s : State) (n : CoreN) (x : Core) : (s.setCore n x).foc = s.foc := rfl
@[simp] theorem State.setCore_freeCtr (s : State) (n : CoreN) (x : Core) : (s.setCore n x).freeCtr = s.freeCtr := rfl
@[simp] theorem State.ctx_setCore (s : State) (n : CoreN) (x : Core) (m : CoreN) (q : CtxN) : (s.setCore n x).ctx m q = s.ctx m q := rfl
@[simp] theorem State.die_setCore (s : State) (n : CoreN) (x : Core) (m : Nat) : (s.setCore n x).die m = s.die m := rfl
@[simp] theorem State.cluster_setCore (s : State) (n : CoreN) (x : Core) (m : Nat) : (s.setCore n x).cluster m = s.cluster m := rfl
@[simp] theorem State.engine_setCore (s : State) (n : CoreN) (x : Core) (m : Nat) : (s.setCore n x).engine m = s.engine m := rfl
@[simp] theorem State.creg_setCore (s : State) (n : CoreN) (x : Core) (m : Nat) : (s.setCore n x).creg m = s.creg m := rfl
@[simp] theorem State.rdByte_setCore (s : State) (n : CoreN) (x : Core) (m : Nat) : (s.setCore n x).rdByte m = s.rdByte m := rfl

/-! ### setDie -/

@[simp] theorem State.setDie_mem (s : State) (d : Nat) (x : Die) : (s.setDie d x).mem = s.mem := rfl
@[simp] theorem State.setDie_gran (s : State) (d : Nat) (x : Die) : (s.setDie d x).gran = s.gran := rfl
@[simp] theorem State.setDie_poison (s : State) (d : Nat) (x : Die) : (s.setDie d x).poison = s.poison := rfl
@[simp] theorem State.setDie_ecc (s : State) (d : Nat) (x : Die) : (s.setDie d x).ecc = s.ecc := rfl
@[simp] theorem State.setDie_l2 (s : State) (d : Nat) (x : Die) : (s.setDie d x).l2 = s.l2 := rfl
@[simp] theorem State.setDie_cregs (s : State) (d : Nat) (x : Die) : (s.setDie d x).cregs = s.cregs := rfl
@[simp] theorem State.setDie_llcOld (s : State) (d : Nat) (x : Die) : (s.setDie d x).llcOld = s.llcOld := rfl
@[simp] theorem State.setDie_cores (s : State) (d : Nat) (x : Die) : (s.setDie d x).cores = s.cores := rfl
@[simp] theorem State.setDie_ctxs (s : State) (d : Nat) (x : Die) : (s.setDie d x).ctxs = s.ctxs := rfl
@[simp] theorem State.setDie_clusters (s : State) (d : Nat) (x : Die) : (s.setDie d x).clusters = s.clusters := rfl
@[simp] theorem State.setDie_engines (s : State) (d : Nat) (x : Die) : (s.setDie d x).engines = s.engines := rfl
@[simp] theorem State.setDie_pkg (s : State) (d : Nat) (x : Die) : (s.setDie d x).pkg = s.pkg := rfl
@[simp] theorem State.setDie_agenda (s : State) (d : Nat) (x : Die) : (s.setDie d x).agenda = s.agenda := rfl
@[simp] theorem State.setDie_foc (s : State) (d : Nat) (x : Die) : (s.setDie d x).foc = s.foc := rfl
@[simp] theorem State.setDie_freeCtr (s : State) (d : Nat) (x : Die) : (s.setDie d x).freeCtr = s.freeCtr := rfl
@[simp] theorem State.ctx_setDie (s : State) (d : Nat) (x : Die) (m : CoreN) (q : CtxN) : (s.setDie d x).ctx m q = s.ctx m q := rfl
@[simp] theorem State.core_setDie (s : State) (d : Nat) (x : Die) (m : CoreN) : (s.setDie d x).core m = s.core m := rfl
@[simp] theorem State.cluster_setDie (s : State) (d : Nat) (x : Die) (m : Nat) : (s.setDie d x).cluster m = s.cluster m := rfl
@[simp] theorem State.engine_setDie (s : State) (d : Nat) (x : Die) (m : Nat) : (s.setDie d x).engine m = s.engine m := rfl
@[simp] theorem State.creg_setDie (s : State) (d : Nat) (x : Die) (m : Nat) : (s.setDie d x).creg m = s.creg m := rfl
@[simp] theorem State.rdByte_setDie (s : State) (d : Nat) (x : Die) (m : Nat) : (s.setDie d x).rdByte m = s.rdByte m := rfl

/-! ### setCluster -/

@[simp] theorem State.setCluster_mem (s : State) (k : Nat) (x : Cluster) : (s.setCluster k x).mem = s.mem := rfl
@[simp] theorem State.setCluster_gran (s : State) (k : Nat) (x : Cluster) : (s.setCluster k x).gran = s.gran := rfl
@[simp] theorem State.setCluster_poison (s : State) (k : Nat) (x : Cluster) : (s.setCluster k x).poison = s.poison := rfl
@[simp] theorem State.setCluster_ecc (s : State) (k : Nat) (x : Cluster) : (s.setCluster k x).ecc = s.ecc := rfl
@[simp] theorem State.setCluster_l2 (s : State) (k : Nat) (x : Cluster) : (s.setCluster k x).l2 = s.l2 := rfl
@[simp] theorem State.setCluster_cregs (s : State) (k : Nat) (x : Cluster) : (s.setCluster k x).cregs = s.cregs := rfl
@[simp] theorem State.setCluster_llcOld (s : State) (k : Nat) (x : Cluster) : (s.setCluster k x).llcOld = s.llcOld := rfl
@[simp] theorem State.setCluster_cores (s : State) (k : Nat) (x : Cluster) : (s.setCluster k x).cores = s.cores := rfl
@[simp] theorem State.setCluster_ctxs (s : State) (k : Nat) (x : Cluster) : (s.setCluster k x).ctxs = s.ctxs := rfl
@[simp] theorem State.setCluster_engines (s : State) (k : Nat) (x : Cluster) : (s.setCluster k x).engines = s.engines := rfl
@[simp] theorem State.setCluster_dies (s : State) (k : Nat) (x : Cluster) : (s.setCluster k x).dies = s.dies := rfl
@[simp] theorem State.setCluster_pkg (s : State) (k : Nat) (x : Cluster) : (s.setCluster k x).pkg = s.pkg := rfl
@[simp] theorem State.setCluster_agenda (s : State) (k : Nat) (x : Cluster) : (s.setCluster k x).agenda = s.agenda := rfl
@[simp] theorem State.setCluster_foc (s : State) (k : Nat) (x : Cluster) : (s.setCluster k x).foc = s.foc := rfl
@[simp] theorem State.setCluster_freeCtr (s : State) (k : Nat) (x : Cluster) : (s.setCluster k x).freeCtr = s.freeCtr := rfl
@[simp] theorem State.ctx_setCluster (s : State) (k : Nat) (x : Cluster) (m : CoreN) (q : CtxN) : (s.setCluster k x).ctx m q = s.ctx m q := rfl
@[simp] theorem State.core_setCluster (s : State) (k : Nat) (x : Cluster) (m : CoreN) : (s.setCluster k x).core m = s.core m := rfl
@[simp] theorem State.die_setCluster (s : State) (k : Nat) (x : Cluster) (m : Nat) : (s.setCluster k x).die m = s.die m := rfl
@[simp] theorem State.engine_setCluster (s : State) (k : Nat) (x : Cluster) (m : Nat) : (s.setCluster k x).engine m = s.engine m := rfl
@[simp] theorem State.creg_setCluster (s : State) (k : Nat) (x : Cluster) (m : Nat) : (s.setCluster k x).creg m = s.creg m := rfl
@[simp] theorem State.rdByte_setCluster (s : State) (k : Nat) (x : Cluster) (m : Nat) : (s.setCluster k x).rdByte m = s.rdByte m := rfl

/-! ### setEngine -/

@[simp] theorem State.setEngine_mem (s : State) (e : Nat) (x : Engine) : (s.setEngine e x).mem = s.mem := rfl
@[simp] theorem State.setEngine_gran (s : State) (e : Nat) (x : Engine) : (s.setEngine e x).gran = s.gran := rfl
@[simp] theorem State.setEngine_poison (s : State) (e : Nat) (x : Engine) : (s.setEngine e x).poison = s.poison := rfl
@[simp] theorem State.setEngine_ecc (s : State) (e : Nat) (x : Engine) : (s.setEngine e x).ecc = s.ecc := rfl
@[simp] theorem State.setEngine_l2 (s : State) (e : Nat) (x : Engine) : (s.setEngine e x).l2 = s.l2 := rfl
@[simp] theorem State.setEngine_cregs (s : State) (e : Nat) (x : Engine) : (s.setEngine e x).cregs = s.cregs := rfl
@[simp] theorem State.setEngine_llcOld (s : State) (e : Nat) (x : Engine) : (s.setEngine e x).llcOld = s.llcOld := rfl
@[simp] theorem State.setEngine_cores (s : State) (e : Nat) (x : Engine) : (s.setEngine e x).cores = s.cores := rfl
@[simp] theorem State.setEngine_ctxs (s : State) (e : Nat) (x : Engine) : (s.setEngine e x).ctxs = s.ctxs := rfl
@[simp] theorem State.setEngine_clusters (s : State) (e : Nat) (x : Engine) : (s.setEngine e x).clusters = s.clusters := rfl
@[simp] theorem State.setEngine_dies (s : State) (e : Nat) (x : Engine) : (s.setEngine e x).dies = s.dies := rfl
@[simp] theorem State.setEngine_pkg (s : State) (e : Nat) (x : Engine) : (s.setEngine e x).pkg = s.pkg := rfl
@[simp] theorem State.setEngine_agenda (s : State) (e : Nat) (x : Engine) : (s.setEngine e x).agenda = s.agenda := rfl
@[simp] theorem State.setEngine_foc (s : State) (e : Nat) (x : Engine) : (s.setEngine e x).foc = s.foc := rfl
@[simp] theorem State.setEngine_freeCtr (s : State) (e : Nat) (x : Engine) : (s.setEngine e x).freeCtr = s.freeCtr := rfl
@[simp] theorem State.ctx_setEngine (s : State) (e : Nat) (x : Engine) (m : CoreN) (q : CtxN) : (s.setEngine e x).ctx m q = s.ctx m q := rfl
@[simp] theorem State.core_setEngine (s : State) (e : Nat) (x : Engine) (m : CoreN) : (s.setEngine e x).core m = s.core m := rfl
@[simp] theorem State.die_setEngine (s : State) (e : Nat) (x : Engine) (m : Nat) : (s.setEngine e x).die m = s.die m := rfl
@[simp] theorem State.cluster_setEngine (s : State) (e : Nat) (x : Engine) (m : Nat) : (s.setEngine e x).cluster m = s.cluster m := rfl
@[simp] theorem State.creg_setEngine (s : State) (e : Nat) (x : Engine) (m : Nat) : (s.setEngine e x).creg m = s.creg m := rfl
@[simp] theorem State.rdByte_setEngine (s : State) (e : Nat) (x : Engine) (m : Nat) : (s.setEngine e x).rdByte m = s.rdByte m := rfl

/-! ### setCreg -/

@[simp] theorem State.setCreg_mem (s : State) (pa : Nat) (v : Word) : (s.setCreg pa v).mem = s.mem := rfl
@[simp] theorem State.setCreg_gran (s : State) (pa : Nat) (v : Word) : (s.setCreg pa v).gran = s.gran := rfl
@[simp] theorem State.setCreg_poison (s : State) (pa : Nat) (v : Word) : (s.setCreg pa v).poison = s.poison := rfl
@[simp] theorem State.setCreg_ecc (s : State) (pa : Nat) (v : Word) : (s.setCreg pa v).ecc = s.ecc := rfl
@[simp] theorem State.setCreg_l2 (s : State) (pa : Nat) (v : Word) : (s.setCreg pa v).l2 = s.l2 := rfl
@[simp] theorem State.setCreg_llcOld (s : State) (pa : Nat) (v : Word) : (s.setCreg pa v).llcOld = s.llcOld := rfl
@[simp] theorem State.setCreg_cores (s : State) (pa : Nat) (v : Word) : (s.setCreg pa v).cores = s.cores := rfl
@[simp] theorem State.setCreg_ctxs (s : State) (pa : Nat) (v : Word) : (s.setCreg pa v).ctxs = s.ctxs := rfl
@[simp] theorem State.setCreg_clusters (s : State) (pa : Nat) (v : Word) : (s.setCreg pa v).clusters = s.clusters := rfl
@[simp] theorem State.setCreg_engines (s : State) (pa : Nat) (v : Word) : (s.setCreg pa v).engines = s.engines := rfl
@[simp] theorem State.setCreg_dies (s : State) (pa : Nat) (v : Word) : (s.setCreg pa v).dies = s.dies := rfl
@[simp] theorem State.setCreg_pkg (s : State) (pa : Nat) (v : Word) : (s.setCreg pa v).pkg = s.pkg := rfl
@[simp] theorem State.setCreg_agenda (s : State) (pa : Nat) (v : Word) : (s.setCreg pa v).agenda = s.agenda := rfl
@[simp] theorem State.setCreg_foc (s : State) (pa : Nat) (v : Word) : (s.setCreg pa v).foc = s.foc := rfl
@[simp] theorem State.setCreg_freeCtr (s : State) (pa : Nat) (v : Word) : (s.setCreg pa v).freeCtr = s.freeCtr := rfl
@[simp] theorem State.ctx_setCreg (s : State) (pa : Nat) (v : Word) (m : CoreN) (q : CtxN) : (s.setCreg pa v).ctx m q = s.ctx m q := rfl
@[simp] theorem State.core_setCreg (s : State) (pa : Nat) (v : Word) (m : CoreN) : (s.setCreg pa v).core m = s.core m := rfl
@[simp] theorem State.die_setCreg (s : State) (pa : Nat) (v : Word) (m : Nat) : (s.setCreg pa v).die m = s.die m := rfl
@[simp] theorem State.cluster_setCreg (s : State) (pa : Nat) (v : Word) (m : Nat) : (s.setCreg pa v).cluster m = s.cluster m := rfl
@[simp] theorem State.engine_setCreg (s : State) (pa : Nat) (v : Word) (m : Nat) : (s.setCreg pa v).engine m = s.engine m := rfl
@[simp] theorem State.rdByte_setCreg (s : State) (pa : Nat) (v : Word) (m : Nat) : (s.setCreg pa v).rdByte m = s.rdByte m := rfl

/-! ### wrByte -/

@[simp] theorem State.wrByte_gran (s : State) (pa : Nat) (b : Byte) : (s.wrByte pa b).gran = s.gran := rfl
@[simp] theorem State.wrByte_poison (s : State) (pa : Nat) (b : Byte) : (s.wrByte pa b).poison = s.poison := rfl
@[simp] theorem State.wrByte_ecc (s : State) (pa : Nat) (b : Byte) : (s.wrByte pa b).ecc = s.ecc := rfl
@[simp] theorem State.wrByte_l2 (s : State) (pa : Nat) (b : Byte) : (s.wrByte pa b).l2 = s.l2 := rfl
@[simp] theorem State.wrByte_cregs (s : State) (pa : Nat) (b : Byte) : (s.wrByte pa b).cregs = s.cregs := rfl
@[simp] theorem State.wrByte_llcOld (s : State) (pa : Nat) (b : Byte) : (s.wrByte pa b).llcOld = s.llcOld := rfl
@[simp] theorem State.wrByte_cores (s : State) (pa : Nat) (b : Byte) : (s.wrByte pa b).cores = s.cores := rfl
@[simp] theorem State.wrByte_ctxs (s : State) (pa : Nat) (b : Byte) : (s.wrByte pa b).ctxs = s.ctxs := rfl
@[simp] theorem State.wrByte_clusters (s : State) (pa : Nat) (b : Byte) : (s.wrByte pa b).clusters = s.clusters := rfl
@[simp] theorem State.wrByte_engines (s : State) (pa : Nat) (b : Byte) : (s.wrByte pa b).engines = s.engines := rfl
@[simp] theorem State.wrByte_dies (s : State) (pa : Nat) (b : Byte) : (s.wrByte pa b).dies = s.dies := rfl
@[simp] theorem State.wrByte_pkg (s : State) (pa : Nat) (b : Byte) : (s.wrByte pa b).pkg = s.pkg := rfl
@[simp] theorem State.wrByte_agenda (s : State) (pa : Nat) (b : Byte) : (s.wrByte pa b).agenda = s.agenda := rfl
@[simp] theorem State.wrByte_foc (s : State) (pa : Nat) (b : Byte) : (s.wrByte pa b).foc = s.foc := rfl
@[simp] theorem State.wrByte_freeCtr (s : State) (pa : Nat) (b : Byte) : (s.wrByte pa b).freeCtr = s.freeCtr := rfl
@[simp] theorem State.ctx_wrByte (s : State) (pa : Nat) (b : Byte) (m : CoreN) (q : CtxN) : (s.wrByte pa b).ctx m q = s.ctx m q := rfl
@[simp] theorem State.core_wrByte (s : State) (pa : Nat) (b : Byte) (m : CoreN) : (s.wrByte pa b).core m = s.core m := rfl
@[simp] theorem State.die_wrByte (s : State) (pa : Nat) (b : Byte) (m : Nat) : (s.wrByte pa b).die m = s.die m := rfl
@[simp] theorem State.cluster_wrByte (s : State) (pa : Nat) (b : Byte) (m : Nat) : (s.wrByte pa b).cluster m = s.cluster m := rfl
@[simp] theorem State.engine_wrByte (s : State) (pa : Nat) (b : Byte) (m : Nat) : (s.wrByte pa b).engine m = s.engine m := rfl
@[simp] theorem State.creg_wrByte (s : State) (pa : Nat) (b : Byte) (m : Nat) : (s.wrByte pa b).creg m = s.creg m := rfl

/-! ### mapArch -/

@[simp] theorem State.mapArch_mem (s : State) (n : CoreN) (c : CtxN) (f : Arch → Arch) : (s.mapArch n c f).mem = s.mem := rfl
@[simp] theorem State.mapArch_gran (s : State) (n : CoreN) (c : CtxN) (f : Arch → Arch) : (s.mapArch n c f).gran = s.gran := rfl
@[simp] theorem State.mapArch_poison (s : State) (n : CoreN) (c : CtxN) (f : Arch → Arch) : (s.mapArch n c f).poison = s.poison := rfl
@[simp] theorem State.mapArch_ecc (s : State) (n : CoreN) (c : CtxN) (f : Arch → Arch) : (s.mapArch n c f).ecc = s.ecc := rfl
@[simp] theorem State.mapArch_l2 (s : State) (n : CoreN) (c : CtxN) (f : Arch → Arch) : (s.mapArch n c f).l2 = s.l2 := rfl
@[simp] theorem State.mapArch_cregs (s : State) (n : CoreN) (c : CtxN) (f : Arch → Arch) : (s.mapArch n c f).cregs = s.cregs := rfl
@[simp] theorem State.mapArch_llcOld (s : State) (n : CoreN) (c : CtxN) (f : Arch → Arch) : (s.mapArch n c f).llcOld = s.llcOld := rfl
@[simp] theorem State.mapArch_cores (s : State) (n : CoreN) (c : CtxN) (f : Arch → Arch) : (s.mapArch n c f).cores = s.cores := rfl
@[simp] theorem State.mapArch_clusters (s : State) (n : CoreN) (c : CtxN) (f : Arch → Arch) : (s.mapArch n c f).clusters = s.clusters := rfl
@[simp] theorem State.mapArch_engines (s : State) (n : CoreN) (c : CtxN) (f : Arch → Arch) : (s.mapArch n c f).engines = s.engines := rfl
@[simp] theorem State.mapArch_dies (s : State) (n : CoreN) (c : CtxN) (f : Arch → Arch) : (s.mapArch n c f).dies = s.dies := rfl
@[simp] theorem State.mapArch_pkg (s : State) (n : CoreN) (c : CtxN) (f : Arch → Arch) : (s.mapArch n c f).pkg = s.pkg := rfl
@[simp] theorem State.mapArch_agenda (s : State) (n : CoreN) (c : CtxN) (f : Arch → Arch) : (s.mapArch n c f).agenda = s.agenda := rfl
@[simp] theorem State.mapArch_foc (s : State) (n : CoreN) (c : CtxN) (f : Arch → Arch) : (s.mapArch n c f).foc = s.foc := rfl
@[simp] theorem State.mapArch_freeCtr (s : State) (n : CoreN) (c : CtxN) (f : Arch → Arch) : (s.mapArch n c f).freeCtr = s.freeCtr := rfl
@[simp] theorem State.core_mapArch (s : State) (n : CoreN) (c : CtxN) (f : Arch → Arch) (m : CoreN) : (s.mapArch n c f).core m = s.core m := rfl
@[simp] theorem State.die_mapArch (s : State) (n : CoreN) (c : CtxN) (f : Arch → Arch) (m : Nat) : (s.mapArch n c f).die m = s.die m := rfl
@[simp] theorem State.cluster_mapArch (s : State) (n : CoreN) (c : CtxN) (f : Arch → Arch) (m : Nat) : (s.mapArch n c f).cluster m = s.cluster m := rfl
@[simp] theorem State.engine_mapArch (s : State) (n : CoreN) (c : CtxN) (f : Arch → Arch) (m : Nat) : (s.mapArch n c f).engine m = s.engine m := rfl
@[simp] theorem State.creg_mapArch (s : State) (n : CoreN) (c : CtxN) (f : Arch → Arch) (m : Nat) : (s.mapArch n c f).creg m = s.creg m := rfl
@[simp] theorem State.rdByte_mapArch (s : State) (n : CoreN) (c : CtxN) (f : Arch → Arch) (m : Nat) : (s.mapArch n c f).rdByte m = s.rdByte m := rfl

/-! ### land -/

@[simp] theorem State.land_mem (s : State) (lat : Nat) (ws : List Write) : (s.land lat ws).mem = s.mem := rfl
@[simp] theorem State.land_gran (s : State) (lat : Nat) (ws : List Write) : (s.land lat ws).gran = s.gran := rfl
@[simp] theorem State.land_poison (s : State) (lat : Nat) (ws : List Write) : (s.land lat ws).poison = s.poison := rfl
@[simp] theorem State.land_ecc (s : State) (lat : Nat) (ws : List Write) : (s.land lat ws).ecc = s.ecc := rfl
@[simp] theorem State.land_l2 (s : State) (lat : Nat) (ws : List Write) : (s.land lat ws).l2 = s.l2 := rfl
@[simp] theorem State.land_cregs (s : State) (lat : Nat) (ws : List Write) : (s.land lat ws).cregs = s.cregs := rfl
@[simp] theorem State.land_llcOld (s : State) (lat : Nat) (ws : List Write) : (s.land lat ws).llcOld = s.llcOld := rfl
@[simp] theorem State.land_cores (s : State) (lat : Nat) (ws : List Write) : (s.land lat ws).cores = s.cores := rfl
@[simp] theorem State.land_clusters (s : State) (lat : Nat) (ws : List Write) : (s.land lat ws).clusters = s.clusters := rfl
@[simp] theorem State.land_engines (s : State) (lat : Nat) (ws : List Write) : (s.land lat ws).engines = s.engines := rfl
@[simp] theorem State.land_dies (s : State) (lat : Nat) (ws : List Write) : (s.land lat ws).dies = s.dies := rfl
@[simp] theorem State.land_pkg (s : State) (lat : Nat) (ws : List Write) : (s.land lat ws).pkg = s.pkg := rfl
@[simp] theorem State.land_agenda (s : State) (lat : Nat) (ws : List Write) : (s.land lat ws).agenda = s.agenda := rfl
@[simp] theorem State.land_foc (s : State) (lat : Nat) (ws : List Write) : (s.land lat ws).foc = s.foc := rfl
@[simp] theorem State.land_freeCtr (s : State) (lat : Nat) (ws : List Write) : (s.land lat ws).freeCtr = s.freeCtr := rfl
@[simp] theorem State.core_land (s : State) (lat : Nat) (ws : List Write) (m : CoreN) : (s.land lat ws).core m = s.core m := rfl
@[simp] theorem State.die_land (s : State) (lat : Nat) (ws : List Write) (m : Nat) : (s.land lat ws).die m = s.die m := rfl
@[simp] theorem State.cluster_land (s : State) (lat : Nat) (ws : List Write) (m : Nat) : (s.land lat ws).cluster m = s.cluster m := rfl
@[simp] theorem State.engine_land (s : State) (lat : Nat) (ws : List Write) (m : Nat) : (s.land lat ws).engine m = s.engine m := rfl
@[simp] theorem State.creg_land (s : State) (lat : Nat) (ws : List Write) (m : Nat) : (s.land lat ws).creg m = s.creg m := rfl
@[simp] theorem State.rdByte_land (s : State) (lat : Nat) (ws : List Write) (m : Nat) : (s.land lat ws).rdByte m = s.rdByte m := rfl

/-! ### The part that is updated -/

theorem ctxKey_inj {n m : CoreN} {c e : CtxN} (h : ctxKey n c = ctxKey m e) : n = m ∧ c = e := by
  unfold ctxKey at h
  have hc := c.isLt
  have he := e.isLt
  exact ⟨BitVec.eq_of_toNat_eq (by omega), BitVec.eq_of_toNat_eq (by omega)⟩

@[simp] theorem State.ctx_setCtx (s : State) (n : CoreN) (c : CtxN) (x : Ctx) : (s.setCtx n c x).ctx n c = x :=
  mget_mset_self _ _ _ _
theorem State.ctx_setCtx_ne (s : State) {n m : CoreN} {c e : CtxN} (x : Ctx) (h : ¬(m = n ∧ e = c)) :
    (s.setCtx n c x).ctx m e = s.ctx m e :=
  mget_mset_ne _ _ _ fun k => h (ctxKey_inj k)
@[simp] theorem State.cx_setCx (s : State) (x : Ctx) : (s.setCx x).cx = x := mget_mset_self _ _ _ _
theorem State.ctx_setCx_ne (s : State) {m : CoreN} {e : CtxN} (x : Ctx) (h : ¬(m = s.foc.core ∧ e = s.foc.ctx)) :
    (s.setCx x).ctx m e = s.ctx m e := s.ctx_setCtx_ne x h
@[simp] theorem State.core_setCore (s : State) (n : CoreN) (x : Core) : (s.setCore n x).core n = x := mget_mset_self _ _ _ _
theorem State.core_setCore_ne (s : State) {n m : CoreN} (x : Core) (h : m ≠ n) : (s.setCore n x).core m = s.core m :=
  mget_mset_ne _ _ _ fun k => h (BitVec.eq_of_toNat_eq k)
@[simp] theorem State.die_setDie (s : State) (d : Nat) (x : Die) : (s.setDie d x).die d = x := mget_mset_self _ _ _ _
theorem State.die_setDie_ne (s : State) {d e : Nat} (x : Die) (h : e ≠ d) : (s.setDie d x).die e = s.die e :=
  mget_mset_ne _ _ _ h
@[simp] theorem State.cluster_setCluster (s : State) (k : Nat) (x : Cluster) : (s.setCluster k x).cluster k = x :=
  mget_mset_self _ _ _ _
theorem State.cluster_setCluster_ne (s : State) {k j : Nat} (x : Cluster) (h : j ≠ k) :
    (s.setCluster k x).cluster j = s.cluster j := mget_mset_ne _ _ _ h
@[simp] theorem State.engine_setEngine (s : State) (e : Nat) (x : Engine) : (s.setEngine e x).engine e = x :=
  mget_mset_self _ _ _ _
theorem State.engine_setEngine_ne (s : State) {e f : Nat} (x : Engine) (h : f ≠ e) :
    (s.setEngine e x).engine f = s.engine f := mget_mset_ne _ _ _ h
@[simp] theorem State.creg_setCreg (s : State) (pa : Nat) (v : Word) : (s.setCreg pa v).creg pa = v := mget_mset_self _ _ _ _
theorem State.creg_setCreg_ne (s : State) {pa qa : Nat} (v : Word) (h : qa ≠ pa) : (s.setCreg pa v).creg qa = s.creg qa :=
  mget_mset_other _ _ _ _ h
theorem State.rdByte_wrByte (s : State) (pa qa : Nat) (b : Byte) :
    (s.wrByte pa b).rdByte qa = if qa = pa then b else s.rdByte qa := mget_mset _ _ _ _ _
/-- What a result in flight adds to the context in focus. -/
@[simp] theorem State.cx_land (s : State) (lat : Nat) (ws : List Write) :
    (s.land lat ws).cx = s.cx.send s.foc.slot lat ws true := mget_mset_self _ _ _ _
theorem State.ctx_land_ne (s : State) (lat : Nat) (ws : List Write) {m : CoreN} {e : CtxN}
    (h : ¬(m = s.foc.core ∧ e = s.foc.ctx)) : (s.land lat ws).ctx m e = s.ctx m e := s.ctx_setCtx_ne _ h

/-! ### Bytes of memory -/

@[simp] theorem leBytes_length (n x : Nat) : (leBytes n x).length = n := by
  induction n generalizing x with
  | zero => rfl
  | succ n ih => simp [leBytes, ih]

/-- A run of bytes written: the byte at its place, every other byte as before. -/
theorem State.rdByte_wrBytes (s : State) (pa : Nat) (bs : List Byte) (qa : Nat) :
    (s.wrBytes pa bs).rdByte qa = if pa ≤ qa ∧ qa < pa + bs.length then bs.getD (qa - pa) 0 else s.rdByte qa := by
  induction bs generalizing s pa with
  | nil => rw [State.wrBytes, if_neg (by simp only [List.length_nil]; omega)]
  | cons b t ih =>
    rw [State.wrBytes, ih, State.rdByte_wrByte]
    by_cases h : qa = pa
    · subst h
      rw [if_neg (by omega), if_pos rfl, if_pos (by simp), Nat.sub_self, List.getD_cons_zero]
    · by_cases k : pa + 1 ≤ qa ∧ qa < pa + 1 + t.length
      · obtain ⟨j, rfl⟩ : ∃ j, qa = pa + 1 + j := ⟨qa - (pa + 1), by omega⟩
        rw [if_pos k, if_pos (by simp only [List.length_cons]; omega), show pa + 1 + j - (pa + 1) = j by omega,
          show pa + 1 + j - pa = j + 1 by omega, List.getD_cons_succ]
      · rw [if_neg k, if_neg h, if_neg (by simp only [List.length_cons]; omega)]

/-- Writing a register keeps the registers in their canonical form: rising addresses, and none at its reset value. -/
theorem State.setCreg_canonical (s : State) (pa : Nat) (v : Word)
    (h : (s.cregs.map (·.1)).Pairwise (· < ·) ∧ ∀ kv ∈ s.cregs, kv.2 ≠ regReset kv.1) :
    ((s.setCreg pa v).cregs.map (·.1)).Pairwise (· < ·) ∧ ∀ kv ∈ (s.setCreg pa v).cregs, kv.2 ≠ regReset kv.1 := by
  unfold State.setCreg mset
  split
  · exact ⟨rises_mdel _ _ h.1, fun kv m => h.2 kv (mem_mdel m)⟩
  · rename_i ne
    refine ⟨rises_mput _ _ _ h.1, fun kv m => ?_⟩
    rcases mem_mput m with rfl | m
    · exact ne
    · exact h.2 kv m

/-- Writing bytes keeps memory in its canonical form. -/
theorem State.wrBytes_mem_wf (s : State) (pa : Nat) (bs : List Byte) (h : mwf (0 : Byte) s.mem = true) :
    mwf (0 : Byte) (s.wrBytes pa bs).mem = true := by
  induction bs generalizing s pa with
  | nil => exact h
  | cons b t ih => exact ih _ _ (mwf_mset _ _ _ _ h)

end Sys2Proof.Machine
end

