-- ==== Sys2Proof/Laws/Ops.lean ====
section
/-! SUPPORT. What the shared operations over the state can do. -/

namespace Sys2Proof.Machine

/-- An operation that may execute acts. -/
theorem State.guarded_of_ready {s : State} {i : Instr} (h : Ready i s) (k : State → State) : s.guarded i k = .next (k s) := by
  unfold State.guarded
  simp only [h.1, Bool.not_true, Bool.false_eq_true, if_false, h.2]

/-- A guarded operation always goes on. -/
theorem State.guarded_goes (s : State) (i : Instr) (k : State → State) : Goes (s.guarded i k) := by
  unfold State.guarded
  simp only
  split
  · exact ⟨_, rfl⟩
  · split <;> exact ⟨_, rfl⟩

/-- Every operation of a slot acts only through the guard. -/
theorem exec_guarded (i : Instr) (s : State) (h : i.slotClass.isSome) : ∃ k, exec i s = s.guarded i k := by
  cases i <;> first | cases h; done | exact ⟨_, by dsimp only [exec]; rfl⟩

/-- What a slot issues is the meaning that exec gives it. -/
theorem issueOp_eq (i : Instr) (s : State) (h : i.slotClass.isSome) : issueOp i s = exec i s := by
  cases i <;> first | cases h; done | rfl

/-- An operation that may execute answers the state its meaning gives. -/
theorem gives_of_guarded {i : Instr} {s t : State} (k : State → State) (e : exec i s = s.guarded i k) (h : k s = t) : Gives i s t :=
  fun r => by rw [e, State.guarded_of_ready r, h]

/-- A write of the context in focus leaves every other context and every other part of the state. -/
theorem OnlyCx.of_setCx (s : State) (x : Ctx) : OnlyCx s (s.setCx x) x :=
  ⟨State.cx_setCx s x, fun _ _ h => State.ctx_setCx_ne s x h, rfl⟩

/-- So does a second one. -/
theorem OnlyCx.setCx_again {s t : State} {y x : Ctx} (h : OnlyCx s t y) : OnlyCx s (t.setCx x) x := by
  obtain ⟨_, h2, h3⟩ := h
  have hf : t.foc = s.foc := by have := congrArg State.foc h3; simpa using this
  refine ⟨State.cx_setCx t x, fun m e hn => ?_, ?_⟩
  · rw [State.ctx_setCx_ne t x (by rw [hf]; exact hn)]
    exact h2 m e hn
  · rw [← h3]
    rfl

/-- The same for an operation that changes the context in focus alone. -/
theorem givesCx_of_guarded {i : Instr} {s t : State} {x : Ctx} (k : State → State) (e : exec i s = s.guarded i k) (h : k s = t)
    (o : OnlyCx s t x) : GivesCx i s x :=
  fun r => ⟨t, by rw [e, State.guarded_of_ready r, h], o⟩

/-! ### Free values, error correction, and the lines that the L2 or the LLC holds -/

/-- A free value costs the counter one and changes nothing else. -/
theorem State.free_state (s : State) : s.free.2 = { s with freeCtr := s.freeCtr + 1 } := rfl
/-- A step performs a piece that stands alone. -/
theorem State.pick_one (s : State) (p : Piece) : s.pick [p] = (s, [p]) := rfl
/-- Reading a line whose codeword is good changes nothing. -/
theorem State.eccRead_of_good {s : State} {line : Nat} (h : mget 0 s.ecc line = 0) : s.eccRead line = s := by
  simp [State.eccRead, h]
/-- Nor does reading the lines of pieces whose codewords are all good. -/
theorem State.eccPieces_of_good {s : State} : ∀ {ps : List Piece}, (∀ p ∈ ps, ∀ t, p.tr = some t → mget 0 s.ecc (t.pa / 64) = 0) →
    s.eccPieces ps = s
  | [], _ => rfl
  | p :: l, h => by
    have hl := State.eccPieces_of_good fun q hq => h q (List.mem_cons_of_mem p hq)
    unfold State.eccPieces at hl ⊢
    rw [List.foldl_cons]
    cases ht : p.tr with
    | none => exact hl
    | some t => simp only [State.eccRead_of_good (h p List.mem_cons_self t ht)]; exact hl
/-- What an access leaves in the L2 or the LLC is a matter of those and of the codeword alone. -/
theorem State.l2Touch_only (s : State) (pa : Nat) (mt : BitVec 2) (wr : Bool) :
    ∃ l e, s.l2Touch pa mt wr = { s with l2 := l, ecc := e } := by
  unfold State.l2Touch State.setL2 State.writeBack State.setEcc
  dsimp only
  split
  · exact ⟨s.l2, s.ecc, rfl⟩
  · split
    · split
      · exact ⟨_, s.ecc, rfl⟩
      · split
        · exact ⟨s.l2, s.ecc, rfl⟩
        · exact ⟨_, s.ecc, rfl⟩
    · split
      · exact ⟨s.l2, _, rfl⟩
      · exact ⟨s.l2, s.ecc, rfl⟩

/-! ### Taking an exception locally (R399) -/

/-- A cause that the handler takes: the trap registers are written, issue goes on at TRAPVEC.ADDR with SUP set, what the bundle had
set up is kept for the return, and the stop is named (R414). -/
theorem State.takeLocal_of_handler {s : State} {n : CoreN} {c : CtxN} {q : Cause} (h : (s.ctx n c).a.handler = true) :
    ∃ x, s.takeLocal n c q = (s.setCtx n c x).nameStop n c q (s.ctx n c).a.sup ∧ x.run = (s.ctx n c).run ∧ x.ck = (s.ctx n c).ck ∧ x.pend = (s.ctx n c).pend
      ∧ x.a = { (s.ctx n c).a.trapRegs q with
          ctxmode := 1, pc := putFld 0 0 48 (s.ctx n c).a.trapvec.toNat &&& ~~~3, rep := 0,
          cut := ⟨(s.ctx n c).tgt, (s.ctx n c).a.rep, (s.ctx n c).post, (s.ctx n c).postIn, (s.ctx n c).csrOld, (s.ctx n c).reissue⟩ } := by
  simp only [State.takeLocal, h, if_true]
  exact ⟨_, rfl, rfl, rfl, rfl, rfl⟩
/-- A cause that it does not take stops the context. -/
theorem State.takeLocal_of_no_handler {s : State} {n : CoreN} {c : CtxN} {q : Cause} (h : (s.ctx n c).a.handler = false) :
    s.takeLocal n c q = s.hold n c q := by
  simp [State.takeLocal, h]

end Sys2Proof.Machine
end

