-- ==== Sys2Proof/Laws/PerInstr.lean ====
section
/-! SUPPORT. Statements made of every instruction as syntax, one lemma per constructor. -/

namespace Sys2Proof.Laws.Width

/-- The word of a scalar or auxiliary operation has 32 bits (R249); a step without an encoding has no word. -/
def Statement (i : Instr) : Prop :=
  match i.slotClass with
  | none => encodeWord i = 0
  | some c => c = .scalar ∨ c = .aux → encodeWord i >>> 32 = 0

theorem w32_high (x : BitVec 32) : w32 x >>> 32 = 0 := by
  ext k hk
  simp [w32]
theorem none_of (i : Instr) (h : i.slotClass = none) (e : encodeWord i = 0) : Statement i := by
  simp only [Statement, h, e]
theorem word_of (i : Instr) (c : SlotClass) (x : BitVec 32) (h : i.slotClass = some c) (e : encodeWord i = w32 x) :
    Statement i := by
  simp only [Statement, h, e]
  exact fun _ => w32_high x
theorem wide_of (i : Instr) (c : SlotClass) (h : i.slotClass = some c) (n : c ≠ .scalar ∧ c ≠ .aux) : Statement i := by
  simp only [Statement, h]
  exact fun k => absurd k (not_or.mpr n)

theorem add (d a b : Reg) : Statement (.add d a b) := word_of _ .scalar _ rfl rfl
theorem sub (d a b : Reg) : Statement (.sub d a b) := word_of _ .scalar _ rfl rfl
theorem mul (d a b : Reg) : Statement (.mul d a b) := word_of _ .scalar _ rfl rfl
theorem mulh (d a b : Reg) : Statement (.mulh d a b) := word_of _ .scalar _ rfl rfl
theorem mulhu (d a b : Reg) : Statement (.mulhu d a b) := word_of _ .scalar _ rfl rfl
theorem div (d a b : Reg) : Statement (.div d a b) := word_of _ .scalar _ rfl rfl
theorem divu (d a b : Reg) : Statement (.divu d a b) := word_of _ .scalar _ rfl rfl
theorem rem (d a b : Reg) : Statement (.rem d a b) := word_of _ .scalar _ rfl rfl
theorem remu (d a b : Reg) : Statement (.remu d a b) := word_of _ .scalar _ rfl rfl
theorem and (d a b : Reg) : Statement (.and d a b) := word_of _ .scalar _ rfl rfl
theorem or (d a b : Reg) : Statement (.or d a b) := word_of _ .scalar _ rfl rfl
theorem xor (d a b : Reg) : Statement (.xor d a b) := word_of _ .scalar _ rfl rfl
theorem andn (d a b : Reg) : Statement (.andn d a b) := word_of _ .scalar _ rfl rfl
theorem shl (d a b : Reg) : Statement (.shl d a b) := word_of _ .scalar _ rfl rfl
theorem shr (d a b : Reg) : Statement (.shr d a b) := word_of _ .scalar _ rfl rfl
theorem sar (d a b : Reg) : Statement (.sar d a b) := word_of _ .scalar _ rfl rfl
theorem min (d a b : Reg) : Statement (.min d a b) := word_of _ .scalar _ rfl rfl
theorem max (d a b : Reg) : Statement (.max d a b) := word_of _ .scalar _ rfl rfl
theorem minu (d a b : Reg) : Statement (.minu d a b) := word_of _ .scalar _ rfl rfl
theorem maxu (d a b : Reg) : Statement (.maxu d a b) := word_of _ .scalar _ rfl rfl
theorem clz (d a : Reg) : Statement (.clz d a) := word_of _ .scalar _ rfl rfl
theorem popc (d a : Reg) : Statement (.popc d a) := word_of _ .scalar _ rfl rfl
theorem ext (d a b : Reg) (w : BitVec 6) (sgn : Bool) : Statement (.ext d a b w sgn) := word_of _ .scalar _ rfl rfl
theorem sel (d a b : Reg) (p : PReg) (neg : Bool) : Statement (.sel d a b p neg) := word_of _ .scalar _ rfl rfl
theorem adds (d a b : Reg) (uns : Bool) : Statement (.adds d a b uns) := word_of _ .scalar _ rfl rfl
theorem setkey (d a b : Reg) : Statement (.setkey d a b) := word_of _ .scalar _ rfl rfl
theorem addi (d a : Reg) (imm : BitVec 38) : Statement (.addi d a imm) := word_of _ .scalar _ rfl rfl
theorem andi (d a : Reg) (imm : BitVec 38) : Statement (.andi d a imm) := word_of _ .scalar _ rfl rfl
theorem ori (d a : Reg) (imm : BitVec 38) : Statement (.ori d a imm) := word_of _ .scalar _ rfl rfl
theorem xori (d a : Reg) (imm : BitVec 38) : Statement (.xori d a imm) := word_of _ .scalar _ rfl rfl
theorem shli (d a : Reg) (sh : BitVec 6) : Statement (.shli d a sh) := word_of _ .scalar _ rfl rfl
theorem shri (d a : Reg) (sh : BitVec 6) : Statement (.shri d a sh) := word_of _ .scalar _ rfl rfl
theorem sari (d a : Reg) (sh : BitVec 6) : Statement (.sari d a sh) := word_of _ .scalar _ rfl rfl
theorem movi (d : Reg) (imm : BitVec 38) : Statement (.movi d imm) := word_of _ .scalar _ rfl rfl
theorem lih (d a : Reg) (imm : BitVec 38) : Statement (.lih d a imm) := word_of _ .scalar _ rfl rfl
theorem cmp (p : PReg) (cc : BitVec 4) (a b : Reg) : Statement (.cmp p cc a b) := word_of _ .scalar _ rfl rfl
theorem cmpi (p : PReg) (cc : BitVec 4) (a : Reg) (imm : BitVec 36) : Statement (.cmpi p cc a imm) := word_of _ .scalar _ rfl rfl
theorem pand (p a : PReg) (na : Bool) (b : PReg) (nb : Bool) : Statement (.pand p a na b nb) := word_of _ .scalar _ rfl rfl
theorem por (p a : PReg) (na : Bool) (b : PReg) (nb : Bool) : Statement (.por p a na b nb) := word_of _ .scalar _ rfl rfl
theorem pxor (p a : PReg) (na : Bool) (b : PReg) (nb : Bool) : Statement (.pxor p a na b nb) := word_of _ .scalar _ rfl rfl
theorem pandn (p a : PReg) (na : Bool) (b : PReg) (nb : Bool) : Statement (.pandn p a na b nb) := word_of _ .scalar _ rfl rfl
theorem csrr (d : Reg) (num : BitVec 13) : Statement (.csrr d num) := word_of _ .scalar _ rfl rfl
theorem csrw (num : BitVec 13) (a : Reg) : Statement (.csrw num a) := word_of _ .scalar _ rfl rfl
theorem csrs (num : BitVec 13) (a : Reg) : Statement (.csrs num a) := word_of _ .scalar _ rfl rfl
theorem csrc (num : BitVec 13) (a : Reg) : Statement (.csrc num a) := word_of _ .scalar _ rfl rfl
theorem lcw (n : BitVec 3) (a : Reg) : Statement (.lcw n a) := word_of _ .scalar _ rfl rfl
theorem lcr (d : Reg) (n : BitVec 3) : Statement (.lcr d n) := word_of _ .scalar _ rfl rfl
theorem br (p : PReg) (neg : Bool) (off : BitVec 45) : Statement (.br p neg off) := word_of _ .scalar _ rfl rfl
theorem call (p : PReg) (neg : Bool) (off : BitVec 45) : Statement (.call p neg off) := word_of _ .scalar _ rfl rfl
theorem jr (a : Reg) : Statement (.jr a) := word_of _ .scalar _ rfl rfl
theorem callr (a : Reg) : Statement (.callr a) := word_of _ .scalar _ rfl rfl
theorem loopn (v : VNum) (n : BitVec 3) : Statement (.loopn v n) := word_of _ .scalar _ rfl rfl
theorem ifence (a : Reg) (n : BitVec 10) : Statement (.ifence a n) := word_of _ .scalar _ rfl rfl
theorem iswapStage (a : Reg) (n : BitVec 10) : Statement (.iswapStage a n) := word_of _ .scalar _ rfl rfl
theorem trap (n : BitVec 8) : Statement (.trap n) := word_of _ .scalar _ rfl rfl
theorem suspend (c : BitVec 4) (a v : Reg) : Statement (.suspend c a v) := word_of _ .scalar _ rfl rfl
theorem vadd (o : VOp) : Statement (.vadd o) := wide_of _ .vector rfl (by decide)
theorem vsub (o : VOp) : Statement (.vsub o) := wide_of _ .vector rfl (by decide)
theorem vmul (o : VOp) : Statement (.vmul o) := wide_of _ .vector rfl (by decide)
theorem vfma (o : VOp) : Statement (.vfma o) := wide_of _ .vector rfl (by decide)
theorem vfms (o : VOp) : Statement (.vfms o) := wide_of _ .vector rfl (by decide)
theorem vmin (o : VOp) : Statement (.vmin o) := wide_of _ .vector rfl (by decide)
theorem vmax (o : VOp) : Statement (.vmax o) := wide_of _ .vector rfl (by decide)
theorem vabs (o : VOp) : Statement (.vabs o) := wide_of _ .vector rfl (by decide)
theorem vneg (o : VOp) : Statement (.vneg o) := wide_of _ .vector rfl (by decide)
theorem vadds (o : VOp) : Statement (.vadds o) := wide_of _ .vector rfl (by decide)
theorem vsubs (o : VOp) : Statement (.vsubs o) := wide_of _ .vector rfl (by decide)
theorem vmov (o : VOp) : Statement (.vmov o) := wide_of _ .vector rfl (by decide)
theorem vmulh (o : VOp) : Statement (.vmulh o) := wide_of _ .vector rfl (by decide)
theorem vand (o : VOp) : Statement (.vand o) := wide_of _ .vector rfl (by decide)
theorem vor (o : VOp) : Statement (.vor o) := wide_of _ .vector rfl (by decide)
theorem vxor (o : VOp) : Statement (.vxor o) := wide_of _ .vector rfl (by decide)
theorem vandn (o : VOp) : Statement (.vandn o) := wide_of _ .vector rfl (by decide)
theorem vshl (o : VOp) : Statement (.vshl o) := wide_of _ .vector rfl (by decide)
theorem vshr (o : VOp) : Statement (.vshr o) := wide_of _ .vector rfl (by decide)
theorem vsar (o : VOp) : Statement (.vsar o) := wide_of _ .vector rfl (by decide)
theorem vcmp (o : VOp) : Statement (.vcmp o) := wide_of _ .vector rfl (by decide)
theorem vsel (o : VOp) : Statement (.vsel o) := wide_of _ .vector rfl (by decide)
theorem mand (o : VOp) : Statement (.mand o) := wide_of _ .vector rfl (by decide)
theorem mor (o : VOp) : Statement (.mor o) := wide_of _ .vector rfl (by decide)
theorem mxor (o : VOp) : Statement (.mxor o) := wide_of _ .vector rfl (by decide)
theorem mandn (o : VOp) : Statement (.mandn o) := wide_of _ .vector rfl (by decide)
theorem mpop (o : VOp) : Statement (.mpop o) := wide_of _ .vector rfl (by decide)
theorem vcvt (o : VOp) : Statement (.vcvt o) := wide_of _ .vector rfl (by decide)
theorem vqnt (o : VOp) : Statement (.vqnt o) := wide_of _ .vector rfl (by decide)
theorem vdqnt (o : VOp) : Statement (.vdqnt o) := wide_of _ .vector rfl (by decide)
theorem vredsum (o : VOp) : Statement (.vredsum o) := wide_of _ .vector rfl (by decide)
theorem vredmax (o : VOp) : Statement (.vredmax o) := wide_of _ .vector rfl (by decide)
theorem vredmin (o : VOp) : Statement (.vredmin o) := wide_of _ .vector rfl (by decide)
theorem vperm (o : VOp) : Statement (.vperm o) := wide_of _ .vector rfl (by decide)
theorem vbcast (o : VOp) : Statement (.vbcast o) := wide_of _ .vector rfl (by decide)
theorem vbcastScalar (o : VOp) : Statement (.vbcastScalar o) := wide_of _ .vector rfl (by decide)
theorem vlane (o : VOp) : Statement (.vlane o) := wide_of _ .vector rfl (by decide)
theorem vmovs (o : VOp) : Statement (.vmovs o) := wide_of _ .vector rfl (by decide)
theorem vmovl (o : VOp) : Statement (.vmovl o) := wide_of _ .vector rfl (by decide)
theorem vslide (o : VOp) : Statement (.vslide o) := wide_of _ .vector rfl (by decide)
theorem vzip (o : VOp) : Statement (.vzip o) := wide_of _ .vector rfl (by decide)
theorem vunzip (o : VOp) : Statement (.vunzip o) := wide_of _ .vector rfl (by decide)
theorem vrcp (o : VOp) : Statement (.vrcp o) := wide_of _ .vector rfl (by decide)
theorem vrsqrt (o : VOp) : Statement (.vrsqrt o) := wide_of _ .vector rfl (by decide)
theorem vexp2 (o : VOp) : Statement (.vexp2 o) := wide_of _ .vector rfl (by decide)
theorem vlog2 (o : VOp) : Statement (.vlog2 o) := wide_of _ .vector rfl (by decide)
theorem vtanh (o : VOp) : Statement (.vtanh o) := wide_of _ .vector rfl (by decide)
theorem vrng (o : VOp) : Statement (.vrng o) := wide_of _ .vector rfl (by decide)
theorem mma (o : MOp) : Statement (.mma o) := wide_of _ .matrix rfl (by decide)
theorem mmas (o : MOp) : Statement (.mmas o) := wide_of _ .matrix rfl (by decide)
theorem tadd (o : MOp) : Statement (.tadd o) := wide_of _ .matrix rfl (by decide)
theorem tscl (o : MOp) : Statement (.tscl o) := wide_of _ .matrix rfl (by decide)
theorem tcvt (o : MOp) : Statement (.tcvt o) := wide_of _ .matrix rfl (by decide)
theorem tqnt (o : MOp) : Statement (.tqnt o) := wide_of _ .matrix rfl (by decide)
theorem tcmpr (o : MOp) : Statement (.tcmpr o) := wide_of _ .matrix rfl (by decide)
theorem tdcmp (o : MOp) : Statement (.tdcmp o) := wide_of _ .matrix rfl (by decide)
theorem tmov (o : MOp) : Statement (.tmov o) := wide_of _ .matrix rfl (by decide)
theorem mkat (fmt : BitVec 4) (seed : Reg) (sig : Word) : Statement (.mkat fmt seed sig) := wide_of _ .matrix rfl (by decide)
theorem ld (o : LOp) : Statement (.ld o) := wide_of _ .memory rfl (by decide)
theorem st (o : LOp) : Statement (.st o) := wide_of _ .memory rfl (by decide)
theorem vld (o : LOp) : Statement (.vld o) := wide_of _ .memory rfl (by decide)
theorem vst (o : LOp) : Statement (.vst o) := wide_of _ .memory rfl (by decide)
theorem vlds (o : LOp) : Statement (.vlds o) := wide_of _ .memory rfl (by decide)
theorem vsts (o : LOp) : Statement (.vsts o) := wide_of _ .memory rfl (by decide)
theorem vgath (o : LOp) : Statement (.vgath o) := wide_of _ .memory rfl (by decide)
theorem vscat (o : LOp) : Statement (.vscat o) := wide_of _ .memory rfl (by decide)
theorem ldfar (o : LOp) : Statement (.ldfar o) := wide_of _ .memory rfl (by decide)
theorem vldfar (o : LOp) : Statement (.vldfar o) := wide_of _ .memory rfl (by decide)
theorem qmark (o : LOp) : Statement (.qmark o) := wide_of _ .memory rfl (by decide)
theorem fence (o : LOp) : Statement (.fence o) := wide_of _ .memory rfl (by decide)
theorem atom (o : LOp) : Statement (.atom o) := wide_of _ .memory rfl (by decide)
theorem arrive (o : LOp) : Statement (.arrive o) := wide_of _ .memory rfl (by decide)
theorem waitp (o : LOp) : Statement (.waitp o) := wide_of _ .memory rfl (by decide)
theorem berth (o : LOp) : Statement (.berth o) := wide_of _ .memory rfl (by decide)
theorem ownx (o : LOp) : Statement (.ownx o) := wide_of _ .memory rfl (by decide)
theorem monarm (o : LOp) : Statement (.monarm o) := wide_of _ .memory rfl (by decide)
theorem monwait (o : LOp) : Statement (.monwait o) := wide_of _ .memory rfl (by decide)
theorem pref (o : LOp) : Statement (.pref o) := wide_of _ .memory rfl (by decide)
theorem cwb (o : LOp) : Statement (.cwb o) := wide_of _ .memory rfl (by decide)
theorem cinv (o : LOp) : Statement (.cinv o) := wide_of _ .memory rfl (by decide)
theorem cinvAll (o : LOp) : Statement (.cinvAll o) := wide_of _ .memory rfl (by decide)
theorem tagset (o : LOp) : Statement (.tagset o) := wide_of _ .memory rfl (by decide)
theorem tagrd (o : LOp) : Statement (.tagrd o) := wide_of _ .memory rfl (by decide)
theorem tld (o : LOp) : Statement (.tld o) := wide_of _ .memory rfl (by decide)
theorem tst (o : LOp) : Statement (.tst o) := wide_of _ .memory rfl (by decide)
theorem tcfg (o : LOp) : Statement (.tcfg o) := wide_of _ .memory rfl (by decide)
theorem tsave (o : LOp) : Statement (.tsave o) := wide_of _ .memory rfl (by decide)
theorem trest (o : LOp) : Statement (.trest o) := wide_of _ .memory rfl (by decide)
theorem tsend (o : LOp) : Statement (.tsend o) := wide_of _ .memory rfl (by decide)
theorem trigger (o : LOp) : Statement (.trigger o) := wide_of _ .memory rfl (by decide)
theorem spawn (o : LOp) : Statement (.spawn o) := wide_of _ .memory rfl (by decide)
theorem launch (o : LOp) : Statement (.launch o) := wide_of _ .memory rfl (by decide)
theorem gssnext (o : LOp) : Statement (.gssnext o) := wide_of _ .memory rfl (by decide)
theorem sld (o : XOp) : Statement (.sld o) := word_of _ .aux _ rfl rfl
theorem trw (o : XOp) : Statement (.trw o) := word_of _ .aux _ rfl rfl
theorem trr (o : XOp) : Statement (.trr o) := word_of _ .aux _ rfl rfl
theorem tcw (o : XOp) : Statement (.tcw o) := word_of _ .aux _ rfl rfl
theorem tcr (o : XOp) : Statement (.tcr o) := word_of _ .aux _ rfl rfl
theorem tzero (o : XOp) : Statement (.tzero o) := word_of _ .aux _ rfl rfl
theorem brd (o : XOp) : Statement (.brd o) := word_of _ .aux _ rfl rfl
theorem bwr (o : XOp) : Statement (.bwr o) := word_of _ .aux _ rfl rfl
theorem bchk (o : XOp) : Statement (.bchk o) := word_of _ .aux _ rfl rfl
theorem bclr (o : XOp) : Statement (.bclr o) := word_of _ .aux _ rfl rfl
theorem sgrd (o : XOp) : Statement (.sgrd o) := word_of _ .aux _ rfl rfl
theorem sgclr (o : XOp) : Statement (.sgclr o) := word_of _ .aux _ rfl rfl
theorem kwr (o : XOp) : Statement (.kwr o) := word_of _ .aux _ rfl rfl
theorem krd (o : XOp) : Statement (.krd o) := word_of _ .aux _ rfl rfl
theorem registerDoubleError (n : CoreN) (c : CtxN) (site : ErrSite) : Statement (.registerDoubleError n c site) := none_of _ rfl rfl
theorem arbiterServe (cl : ClusterN) (agree : Bool) : Statement (.arbiterServe cl agree) := none_of _ rfl rfl
theorem verifctlWrite (n : CoreN) (v : Word) : Statement (.verifctlWrite n v) := none_of _ rfl rfl
theorem resultArrival (n : CoreN) (c : CtxN) (seq : Nat) : Statement (.resultArrival n c seq) := none_of _ rfl rfl
theorem parkWake (cl : ClusterN) (line : PAddr) : Statement (.parkWake cl line) := none_of _ rfl rfl
theorem walkinvPage (d : DieN) (asid : BitVec 16) (vpage : BitVec 36) : Statement (.walkinvPage d asid vpage) := none_of _ rfl rfl
theorem walkinvAsid (d : DieN) (asid : BitVec 16) : Statement (.walkinvAsid d asid) := none_of _ rfl rfl
theorem walkinvAll (d : DieN) : Statement (.walkinvAll d) := none_of _ rfl rfl
theorem faulttailWrite (d : DieN) (v : Word) : Statement (.faulttailWrite d v) := none_of _ rfl rfl
theorem violtailWrite (d : DieN) (v : Word) : Statement (.violtailWrite d v) := none_of _ rfl rfl
theorem leaseCheckWait (d : DieN) (base : BitVec 40) : Statement (.leaseCheckWait d base) := none_of _ rfl rfl
theorem leaseCheckRevoke (d : DieN) (base : BitVec 40) : Statement (.leaseCheckRevoke d base) := none_of _ rfl rfl
theorem storePerform (n : CoreN) (c : CtxN) (k : Nat) (bad : BitVec 3) : Statement (.storePerform n c k bad) := none_of _ rfl rfl
theorem loadPerform (n : CoreN) (c : CtxN) (k : Nat) : Statement (.loadPerform n c k) := none_of _ rfl rfl
theorem atomicPerform (n : CoreN) (c : CtxN) (k : Nat) (status : AtomStatus) : Statement (.atomicPerform n c k status) := none_of _ rfl rfl
theorem replayRewalk (n : CoreN) (c : CtxN) (k : Nat) : Statement (.replayRewalk n c k) := none_of _ rfl rfl
theorem replayRewalkTimer (n : CoreN) (c : CtxN) (k : Nat) : Statement (.replayRewalkTimer n c k) := none_of _ rfl rfl
theorem bankmodeSwitch (n : CoreN) (c : CtxN) (b : BitVec 4) (v : Word) : Statement (.bankmodeSwitch n c b v) := none_of _ rfl rfl
theorem bankSwitchComplete (n : CoreN) (b : BitVec 4) : Statement (.bankSwitchComplete n b) := none_of _ rfl rfl
theorem llcwinResize (s : SillN) (v : Word) : Statement (.llcwinResize s v) := none_of _ rfl rfl
theorem llcwinResizeDone (s : SillN) : Statement (.llcwinResizeDone s) := none_of _ rfl rfl
theorem fifoPushAccept (n : CoreN) (b : BitVec 4) : Statement (.fifoPushAccept n b) := none_of _ rfl rfl
theorem copy (e : EngineN) : Statement (.copy e) := none_of _ rfl rfl
theorem copysc (e : EngineN) (bad : BitVec 3) : Statement (.copysc e bad) := none_of _ rfl rfl
theorem migrate (e : EngineN) : Statement (.migrate e) := none_of _ rfl rfl
theorem mcast (e : EngineN) : Statement (.mcast e) := none_of _ rfl rfl
theorem cetailWrite (e : EngineN) (w : Master) (v : Word) : Statement (.cetailWrite e w v) := none_of _ rfl rfl
theorem cestatResume (e : EngineN) (w : Master) : Statement (.cestatResume e w) := none_of _ rfl rfl
theorem cestatSkip (e : EngineN) (w : Master) : Statement (.cestatSkip e w) := none_of _ rfl rfl
theorem ownershipWord0Write (d : DieN) (i : BitVec 16) (v : Word) : Statement (.ownershipWord0Write d i v) := none_of _ rfl rfl
theorem ownershipWord1Write (d : DieN) (i : BitVec 16) (v : Word) : Statement (.ownershipWord1Write d i v) := none_of _ rfl rfl
theorem barrierObjectWrite (d : DieN) (i : BitVec 16) (v : Word) : Statement (.barrierObjectWrite d i v) := none_of _ rfl rfl
theorem phaseWatchRetry (d : DieN) (r : PAddr) : Statement (.phaseWatchRetry d r) := none_of _ rfl rfl
theorem refreshRow (s : SillN) (line : BitVec 30) (symbols : BitVec 3) : Statement (.refreshRow s line symbols) := none_of _ rfl rfl
theorem eccCountClear (s : SillN) (v : Word) : Statement (.eccCountClear s v) := none_of _ rfl rfl
theorem dispatch (n : CoreN) (c : CtxN) (pa : PAddr) : Statement (.dispatch n c pa) := none_of _ rfl rfl
theorem preEmpt (n : CoreN) (c : CtxN) (resno : BitVec 16) : Statement (.preEmpt n c resno) := none_of _ rfl rfl
theorem force (n : CoreN) (c : CtxN) (resno : BitVec 16) : Statement (.force n c resno) := none_of _ rfl rfl
theorem kill (n : CoreN) (c : CtxN) (resno : BitVec 16) : Statement (.kill n c resno) := none_of _ rfl rfl
theorem resume (n : CoreN) (c : CtxN) (resno : BitVec 16) : Statement (.resume n c resno) := none_of _ rfl rfl
theorem slots (n : CoreN) (arg : PAddr) : Statement (.slots n arg) := none_of _ rfl rfl
theorem banks (n : CoreN) (arg : PAddr) : Statement (.banks n arg) := none_of _ rfl rfl
theorem disteventRead (d : DieN) (w : Master) : Statement (.disteventRead d w) := none_of _ rfl rfl
theorem distmboxrdRead (d : DieN) (w : Master) : Statement (.distmboxrdRead d w) := none_of _ rfl rfl
theorem mboxPlace (d : DieN) (src : DieN) (r : PAddr) (arg : BitVec 6) : Statement (.mboxPlace d src r arg) := none_of _ rfl rfl
theorem mboxPlaced (d : DieN) (src : DieN) (r : PAddr) (arg : BitVec 6) : Statement (.mboxPlaced d src r arg) := none_of _ rfl rfl
theorem mboxNoroom (d : DieN) (src : DieN) (r : PAddr) (arg : BitVec 6) : Statement (.mboxNoroom d src r arg) := none_of _ rfl rfl
theorem mboxPreempt (d : DieN) (src : DieN) (r : PAddr) (arg : BitVec 6) : Statement (.mboxPreempt d src r arg) := none_of _ rfl rfl
theorem mboxForce (d : DieN) (src : DieN) (r : PAddr) (arg : BitVec 6) : Statement (.mboxForce d src r arg) := none_of _ rfl rfl
theorem mboxKill (d : DieN) (src : DieN) (r : PAddr) (arg : BitVec 6) : Statement (.mboxKill d src r arg) := none_of _ rfl rfl
theorem mboxEnded (d : DieN) (src : DieN) (r : PAddr) (arg : BitVec 6) : Statement (.mboxEnded d src r arg) := none_of _ rfl rfl
theorem distctlQuiesce (d : DieN) (v : Word) : Statement (.distctlQuiesce d v) := none_of _ rfl rfl
theorem distctlLoad (d : DieN) (w : Master) (v : Word) : Statement (.distctlLoad d w v) := none_of _ rfl rfl
theorem queueWake (q : BitVec 12) : Statement (.queueWake q) := none_of _ rfl rfl
theorem rcondWake (d : DieN) (r : PAddr) : Statement (.rcondWake d r) := none_of _ rfl rfl
theorem dlogtailWrite (d : DieN) (v : Word) : Statement (.dlogtailWrite d v) := none_of _ rfl rfl
theorem dbgGo (n : CoreN) (c : CtxN) (step : Bool) : Statement (.dbgGo n c step) := none_of _ rfl rfl
theorem traceSessionOpen (n : CoreN) (c : CtxN) (v : Word) : Statement (.traceSessionOpen n c v) := none_of _ rfl rfl
theorem traceSessionClose (n : CoreN) (c : CtxN) (v : Word) : Statement (.traceSessionClose n c v) := none_of _ rfl rfl
theorem spdmGetMeasurements (idx : BitVec 8) : Statement (.spdmGetMeasurements idx) := none_of _ rfl rfl
theorem hostWrite (rid : BitVec 16) (bar2 : Bool) (off : BitVec 42) (w : HostWr) : Statement (.hostWrite rid bar2 off w) := none_of _ rfl rfl
theorem hostRead (rid : BitVec 16) (bar2 : Bool) (off : BitVec 42) (len : Nat) : Statement (.hostRead rid bar2 off len) := none_of _ rfl rfl
theorem hostAtomicop (rid : BitVec 16) (off : HostOff) (op : HostAtom) (wide : BitVec 2) (v cmp : Word) : Statement (.hostAtomicop rid off op wide v cmp) := none_of _ rfl rfl
theorem ideKeyRollover (stream : BitVec 3) (slot : BitVec 1) : Statement (.ideKeyRollover stream slot) := none_of _ rfl rfl
theorem weatorFlit (l : WeatorN) (dir : Bool) (hdr : Word) (payload : BitVec 512) : Statement (.weatorFlit l dir hdr payload) := none_of _ rfl rfl
theorem weatorLinkDown (l : WeatorN) : Statement (.weatorLinkDown l) := none_of _ rfl rfl
theorem towpathFlit (l : DieN) (hdr : Word) (payload : BitVec 512) : Statement (.towpathFlit l hdr payload) := none_of _ rfl rfl
theorem towpathLinkDown (l : DieN) : Statement (.towpathLinkDown l) := none_of _ rfl rfl
theorem powerOnReset (ok : Bool) : Statement (.powerOnReset ok) := none_of _ rfl rfl
theorem stackTrained (s : SillN) : Statement (.stackTrained s) := none_of _ rfl rfl
theorem weatorLinkTrained (l : WeatorN) : Statement (.weatorLinkTrained l) := none_of _ rfl rfl
theorem towpathLinkTrained (l : DieN) : Statement (.towpathLinkTrained l) := none_of _ rfl rfl
theorem trainingTimeout (u : TrainUnit) : Statement (.trainingTimeout u) := none_of _ rfl rfl
theorem modidWrite (v : Word) : Statement (.modidWrite v) := none_of _ rfl rfl
theorem pwrcapWrite (v : Word) : Statement (.pwrcapWrite v) := none_of _ rfl rfl
theorem powerSample (watts : BitVec 16) (tmax : BitVec 8) : Statement (.powerSample watts tmax) := none_of _ rfl rfl
theorem thermalTrip (deg : BitVec 8) : Statement (.thermalTrip deg) := none_of _ rfl rfl
theorem registerWrite (w : Master) (pa : PAddr) (v : Word) : Statement (.registerWrite w pa v) := none_of _ rfl rfl
theorem hostLinkFlit (f : LinkFlit) : Statement (.hostLinkFlit f) := none_of _ rfl rfl
theorem ret : Statement .ret := word_of _ .scalar _ rfl rfl
theorem ifenceAll : Statement .ifenceAll := word_of _ .scalar _ rfl rfl
theorem iswap : Statement .iswap := word_of _ .scalar _ rfl rfl
theorem eret : Statement .eret := word_of _ .scalar _ rfl rfl
theorem suspendDorm : Statement .suspendDorm := word_of _ .scalar _ rfl rfl
theorem yield : Statement .yield := word_of _ .scalar _ rfl rfl
theorem retire : Statement .retire := word_of _ .scalar _ rfl rfl
theorem bundleIssue : Statement .bundleIssue := none_of _ rfl rfl
theorem commitOverflow : Statement .commitOverflow := none_of _ rfl rfl
theorem cleancntWrap : Statement .cleancntWrap := none_of _ rfl rfl
theorem mkatOutcome : Statement .mkatOutcome := none_of _ rfl rfl
theorem instructionFetchFill : Statement .instructionFetchFill := none_of _ rfl rfl
theorem pageWalk : Statement .pageWalk := none_of _ rfl rfl
theorem invalidationComplete : Statement .invalidationComplete := none_of _ rfl rfl
theorem leasetoExpiry : Statement .leasetoExpiry := none_of _ rfl rfl
theorem berthArrival : Statement .berthArrival := none_of _ rfl rfl
theorem berthStart : Statement .berthStart := none_of _ rfl rfl
theorem barrierArrivalApply : Statement .barrierArrivalApply := none_of _ rfl rfl
theorem waitpRetry : Statement .waitpRetry := none_of _ rfl rfl
theorem waitpTimeout : Statement .waitpTimeout := none_of _ rfl rfl
theorem monwaitTimeout : Statement .monwaitTimeout := none_of _ rfl rfl
theorem residencyEnd : Statement .residencyEnd := none_of _ rfl rfl
theorem distQuiesced : Statement .distQuiesced := none_of _ rfl rfl
theorem distctlRun : Statement .distctlRun := none_of _ rfl rfl
theorem pollSweep : Statement .pollSweep := none_of _ rfl rfl
theorem recordOffer : Statement .recordOffer := none_of _ rfl rfl
theorem launchRelease : Statement .launchRelease := none_of _ rfl rfl
theorem watchdogPreempt : Statement .watchdogPreempt := none_of _ rfl rfl
theorem watchdogForce : Statement .watchdogForce := none_of _ rfl rfl
theorem watchdogKill : Statement .watchdogKill := none_of _ rfl rfl
theorem dbgHalt : Statement .dbgHalt := none_of _ rfl rfl
theorem dbgDump : Statement .dbgDump := none_of _ rfl rfl
theorem dbgDumpDone : Statement .dbgDumpDone := none_of _ rfl rfl
theorem dbgLoad : Statement .dbgLoad := none_of _ rfl rfl
theorem sampleTick : Statement .sampleTick := none_of _ rfl rfl
theorem dieReady : Statement .dieReady := none_of _ rfl rfl
theorem fullServiceTransition : Statement .fullServiceTransition := none_of _ rfl rfl
theorem pciExpressLinkTrained : Statement .pciExpressLinkTrained := none_of _ rfl rfl

end Sys2Proof.Laws.Width
end

