-- ==== Sys2Proof/Laws/Vector.lean ====
section
/-! SUPPORT. Lanes: what a register built from lanes holds, and what a lanewise operation leaves. -/

namespace Sys2Proof.Machine

theorem fld_eq {n : Nat} (w : BitVec n) (lo len : Nat) : fld w lo len = w.toNat / 2 ^ lo % 2 ^ len := by
  rw [fld, BitVec.extractLsb'_toNat, Nat.shiftRight_eq_div_pow]

theorem packLanes_lt (w : Nat) : ∀ l : List Nat, packLanes w l < 2 ^ (w * l.length)
  | [] => by simp [packLanes]
  | x :: t => by
    have h := packLanes_lt w t
    have hx : x % 2 ^ w < 2 ^ w := Nat.mod_lt _ (Nat.two_pow_pos w)
    simp only [packLanes, List.length_cons, Nat.mul_add, Nat.mul_one, Nat.pow_add]
    have h2 : 2 ^ w * packLanes w t + 2 ^ w ≤ 2 ^ w * 2 ^ (w * t.length) := by
      rw [← Nat.mul_succ]
      exact Nat.mul_le_mul_left _ h
    rw [Nat.mul_comm (2 ^ (w * t.length))]
    omega

/-- Lane i of packed lanes. -/
theorem packLanes_lane (w : Nat) : ∀ (l : List Nat) (i : Nat), packLanes w l / 2 ^ (w * i) % 2 ^ w = l.getD i 0 % 2 ^ w
  | [], i => by simp [packLanes]
  | x :: t, 0 => by simp [packLanes]
  | x :: t, i + 1 => by
    have ih := packLanes_lane w t i
    rw [List.getD_cons_succ, ← ih, packLanes, Nat.mul_add, Nat.mul_one, Nat.add_comm (w * i), Nat.pow_add, ← Nat.div_div_eq_div_mul,
      Nat.add_mul_div_left _ _ (Nat.two_pow_pos w), Nat.div_eq_of_lt (Nat.mod_lt _ (Nat.two_pow_pos w)), Nat.zero_add]

theorem laneBytes_mul_count (t : BitVec 4) : tyW t * laneCount t = 512 := by
  revert t
  decide

/-- Lane i of a register built from its lanes. -/
theorem lane_ofLanes (t : BitVec 4) (l : List Nat) (i : Nat) (hl : l.length ≤ laneCount t) :
    lane (tyW t) (ofLanes (tyW t) l) i = l.getD i 0 % 2 ^ tyW t := by
  have h := laneBytes_mul_count t
  have hm : tyW t * l.length ≤ 512 := h ▸ Nat.mul_le_mul_left _ hl
  have hlt : packLanes (tyW t) l < 2 ^ 512 := Nat.lt_of_lt_of_le (packLanes_lt _ _) (Nat.pow_le_pow_right Nat.two_pos hm)
  rw [lane, fld_eq, ofLanes, BitVec.toNat_ofNat, Nat.mod_eq_of_lt hlt, packLanes_lane]

theorem lane_lt (w : Nat) (v : VReg) (i : Nat) : lane w v i < 2 ^ w := by
  rw [lane, fld_eq]
  exact Nat.mod_lt _ (Nat.two_pow_pos w)

theorem getD_map_range (f : Nat → Nat) (n i : Nat) (h : i < n) : ((List.range n).map f).getD i 0 = f i := by
  simp [List.getD, h]

/-- A lane is governed as `laneGets` says. -/
theorem laneGets_iff (s : State) (o : VOp) (i : Nat) : laneGets s o i ↔ i < s.cnt o.vcnt ∧ s.vmask o i = true := by
  unfold laneGets State.vmask bitAt
  cases o.mu <;> simp

/-- A merged register, lane by lane. -/
theorem lane_vmerge (s : State) (o : VOp) (f : Nat → Nat) (i : Nat) (hi : i < laneCount o.ty) :
    lane (tyW o.ty) (s.vmerge o f) i = if s.cnt o.vcnt ≤ i then lane (tyW o.ty) (s.V o.vd) i
      else if s.vmask o i then f i % 2 ^ tyW o.ty else if o.mz then 0 else lane (tyW o.ty) (s.V o.vd) i := by
  unfold State.vmerge
  simp only
  rw [lane_ofLanes _ _ _ (by simp), getD_map_range _ _ _ hi]
  have hl := Nat.mod_eq_of_lt (lane_lt (tyW o.ty) (s.V o.vd) i)
  split
  · exact hl
  · split
    · rfl
    · split
      · exact Nat.zero_mod _
      · exact hl

/-- A lanewise result is one of `LaneResult`. -/
theorem State.velem_laneResult (s : State) (o : VOp) (lat : Nat) (f g : Nat → Nat)
    (h : ∀ i < laneCount o.ty, f i % 2 ^ tyW o.ty = g i % 2 ^ tyW o.ty) : LaneResult o lat s g (s.velem o lat f) := by
  refine ⟨s.vmerge o f, rfl, fun i hi => ?_⟩
  rw [lane_vmerge s o f i hi, laneGets_iff]
  refine ⟨fun ⟨hc, hm⟩ => ?_, fun hn => ?_⟩
  · rw [if_neg (by omega), if_pos hm, h i hi]
  · by_cases hc : s.cnt o.vcnt ≤ i
    · rw [if_pos hc, if_neg (by omega)]
    · have hm : s.vmask o i ≠ true := fun hm => hn ⟨by omega, hm⟩
      rw [if_neg hc, if_neg hm]
      by_cases hz : o.mz = true
      · rw [if_pos hz, if_pos ⟨hz, by omega⟩]
      · rw [if_neg hz, if_neg fun k => hz k.1]

/-- A lanewise operation whose lanes agree, modulo the lane width, with a function of the index writes that function's lanes. -/
theorem givesLanes_of_guarded {i : Instr} {o : VOp} {s : State} {lat : Nat} (f g : Nat → Nat)
    (e : exec i s = s.guarded i fun s => s.velem o lat f) (h : ∀ i < laneCount o.ty, f i % 2 ^ tyW o.ty = g i % 2 ^ tyW o.ty) :
    GivesLanes i o lat s g :=
  fun r => ⟨_, by rw [e, State.guarded_of_ready r], State.velem_laneResult s o lat f g h⟩

end Sys2Proof.Machine
end

