-- ==== Sys2Proof/Tests/Slice0.lean ====
section
/-! SUPPORT. Tests. Words written out from the field tables of R250, R252, R254, R256, R258 and the opcode maps, field by field; ill-formed
terms; results on fixed values; and states that meet the hypotheses of the statements, clause by clause. -/

namespace Sys2Proof.Tests

open Sys2Proof.Machine
set_option Elab.async false

/-! ### Decoding -/

def scalarWords1 : List (BitVec 64 × Instr) :=
  [(0b0000000_000101_111110_100001_0000000,
     .add 5 62 33),
   (0b0000001_000101_111110_100001_0000000,
     .sub 5 62 33),
   (0b0000010_000101_111110_100001_0000000,
     .mul 5 62 33),
   (0b0000011_000101_111110_100001_0000000,
     .mulh 5 62 33),
   (0b0000100_000101_111110_100001_0000000,
     .mulhu 5 62 33),
   (0b0000101_000101_111110_100001_0000000,
     .div 5 62 33),
   (0b0000110_000101_111110_100001_0000000,
     .divu 5 62 33),
   (0b0000111_000101_111110_100001_0000000,
     .rem 5 62 33),
   (0b0001000_000101_111110_100001_0000000,
     .remu 5 62 33),
   (0b0001001_000101_111110_100001_0000000,
     .and 5 62 33),
   (0b0001010_000101_111110_100001_0000000,
     .or 5 62 33),
   (0b0001011_000101_111110_100001_0000000,
     .xor 5 62 33),
   (0b0001100_000101_111110_100001_0000000,
     .andn 5 62 33),
   (0b0001101_000101_111110_100001_0000000,
     .shl 5 62 33),
   (0b0001110_000101_111110_100001_0000000,
     .shr 5 62 33),
   (0b0001111_000101_111110_100001_0000000,
     .sar 5 62 33),
   (0b0010000_000101_111110_100001_0000000,
     .min 5 62 33),
   (0b0010001_000101_111110_100001_0000000,
     .max 5 62 33),
   (0b0010010_000101_111110_100001_0000000,
     .minu 5 62 33),
   (0b0010011_000101_111110_100001_0000000,
     .maxu 5 62 33),
   (0b0010100_000101_111110_000000_0000000,
     .clz 5 62),
   (0b0010101_000101_111110_000000_0000000,
     .popc 5 62),
   (0b0010110_000101_111110_100001_1_010111,
     .ext 5 62 33 23 true),
   (0b0010111_000101_111110_100001_00_1_1001,
     .sel 5 62 33 9 true)]
theorem test_decode_scalar_1 : ∀ p ∈ scalarWords1, decodeWord .scalar p.1 Pfx.none = some p.2 := by decide +kernel
def scalarWords2 : List (BitVec 64 × Instr) :=
  [(0b0011000_000101_111110_100001_000000_1,
     .adds 5 62 33 true),
   (0b0011001_000101_111110_100001_0000000,
     .setkey 5 62 33),
   (0b0100000_000101_111110_1000000000001,
     .addi 5 62 (-4095)),
   (0b0100001_000101_111110_1000000000001,
     .andi 5 62 (-4095)),
   (0b0100010_000101_111110_1000000000001,
     .ori 5 62 (-4095)),
   (0b0100011_000101_111110_1000000000001,
     .xori 5 62 (-4095)),
   (0b0101000_000101_111110_1000000000001,
     .lih 5 62 (-4095)),
   (0b0100100_000101_111110_0000000_101001,
     .shli 5 62 41),
   (0b0100101_000101_111110_0000000_101001,
     .shri 5 62 41),
   (0b0100110_000101_111110_0000000_101001,
     .sari 5 62 41),
   (0b0100111_000101_000000_0100000000001,
     .movi 5 2049),
   (0b0110000_1001_1010_111110_100001_00000,
     .cmp 9 10 62 33),
   (0b0110001_1001_0110_111110_10000011000,
     .cmpi 9 6 62 (-1000)),
   (0b0110100_1001_0010_1_1100_0_00000000000,
     .pand 9 2 true 12 false),
   (0b0110101_1001_0010_1_1100_0_00000000000,
     .por 9 2 true 12 false),
   (0b0110110_1001_0010_1_1100_0_00000000000,
     .pxor 9 2 true 12 false),
   (0b0110111_1001_0010_1_1100_0_00000000000,
     .pandn 9 2 true 12 false),
   (0b1000000_000101_000000_0000001001111,
     .csrr 5 0x4F),
   (0b1000001_000000_111110_0000001001111,
     .csrw 0x4F 62),
   (0b1000010_000000_111110_0000001001111,
     .csrs 0x4F 62),
   (0b1000011_000000_111110_0000001001111,
     .csrc 0x4F 62),
   (0b1000100_000000_111110_0000000000_101,
     .lcw 5 62),
   (0b1000101_000101_000000_0000000000_100,
     .lcr 5 4),
   (0b1010000_1001_1_11111111111111111101,
     .br 9 true (-3))]
theorem test_decode_scalar_2 : ∀ p ∈ scalarWords2, decodeWord .scalar p.1 Pfx.none = some p.2 := by decide +kernel
def scalarWords3 : List (BitVec 64 × Instr) :=
  [(0b1010001_1001_0_01000000000000000000,
     .call 9 false 0x40000),
   (0b1010010_000000_111110_0000000000000,
     .jr 62),
   (0b1010011_000000_111110_0000000000000,
     .callr 62),
   (0b1010100_000000_111111_0000000000000,
     .ret),
   (0b1010101_1111101000_110_000000000000,
     .loopn 1000 6),
   (0b1010110_000000_111110_0_00_1111111111,
     .ifence 62 1023),
   (0b1010110_000000000000_1_000000000000,
     .ifenceAll),
   (0b1010111_000000_111110_0_00_0111111111,
     .iswapStage 62 511),
   (0b1010111_000000000000_1_000000000000,
     .iswap),
   (0b1011000_00000000000000000_11001000,
     .trap 200),
   (0b1011001_0000000000000000000000000,
     .eret),
   (0b1011010_000101_111110_000000000_0011,
     .suspend 3 62 5),
   (0b1011010_000000000000_00000000_1_0000,
     .suspendDorm),
   (0b1011011_0000000000000000000000000,
     .yield),
   (0b1011100_0000000000000000000000000,
     .retire)]
theorem test_decode_scalar_3 : ∀ p ∈ scalarWords3, decodeWord .scalar p.1 Pfx.none = some p.2 := by decide +kernel
def vectorWords1 : List (BitVec 64 × Instr) :=
  [(0b0000000_1000_101_1_1_0000000001_0000000010_0000111111_0000000000_111_00001,
     .vadd ⟨8, 5, true, true, 1, 2, 63, 0, 7, 1, none⟩),
   (0b0000001_1000_101_1_1_0000000001_0000000010_0000111111_0000000000_111_00001,
     .vsub ⟨8, 5, true, true, 1, 2, 63, 0, 7, 1, none⟩),
   (0b0000010_1000_101_1_1_0000000001_0000000010_0000111111_0000000000_111_00001,
     .vmul ⟨8, 5, true, true, 1, 2, 63, 0, 7, 1, none⟩),
   (0b0000011_1000_101_1_1_0000000001_0000000010_0000000011_1111111111_111_00000,
     .vfma ⟨8, 5, true, true, 1, 2, 3, 1023, 7, 0, none⟩),
   (0b0000100_1000_101_1_1_0000000001_0000000010_0000000011_1111111111_111_00000,
     .vfms ⟨8, 5, true, true, 1, 2, 3, 1023, 7, 0, none⟩),
   (0b0000101_1000_101_1_1_0000000001_0000000010_0000111111_0000000000_111_00001,
     .vmin ⟨8, 5, true, true, 1, 2, 63, 0, 7, 1, none⟩),
   (0b0000110_1000_101_1_1_0000000001_0000000010_0000111111_0000000000_111_00001,
     .vmax ⟨8, 5, true, true, 1, 2, 63, 0, 7, 1, none⟩),
   (0b0000111_1000_101_1_1_0000000001_0000000010_0000000000_0000000000_110_00000,
     .vabs ⟨8, 5, true, true, 1, 2, 0, 0, 6, 0, none⟩),
   (0b0001000_1000_101_1_1_0000000001_0000000010_0000000000_0000000000_110_00000,
     .vneg ⟨8, 5, true, true, 1, 2, 0, 0, 6, 0, none⟩),
   (0b0001001_0101_101_1_1_0000000001_0000000010_0000000011_0000000000_111_00001,
     .vadds ⟨5, 5, true, true, 1, 2, 3, 0, 7, 1, none⟩),
   (0b0001010_0101_101_1_1_0000000001_0000000010_0000000011_0000000000_111_00001,
     .vsubs ⟨5, 5, true, true, 1, 2, 3, 0, 7, 1, none⟩),
   (0b0001011_1000_101_1_1_0000000001_0000000010_0000000000_0000000000_110_00000,
     .vmov ⟨8, 5, true, true, 1, 2, 0, 0, 6, 0, none⟩),
   (0b0001100_0101_101_1_1_0000000001_0000000010_0000000011_0000000000_111_00001,
     .vmulh ⟨5, 5, true, true, 1, 2, 3, 0, 7, 1, none⟩),
   (0b0010000_0110_101_1_1_1111111111_1000000000_0000000011_0000000000_111_00000,
     .vand ⟨6, 5, true, true, 1023, 512, 3, 0, 7, 0, none⟩),
   (0b0010001_0110_101_1_1_1111111111_1000000000_0000000011_0000000000_111_00000,
     .vor ⟨6, 5, true, true, 1023, 512, 3, 0, 7, 0, none⟩),
   (0b0010010_0110_101_1_1_1111111111_1000000000_0000000011_0000000000_111_00000,
     .vxor ⟨6, 5, true, true, 1023, 512, 3, 0, 7, 0, none⟩),
   (0b0010011_0110_101_1_1_1111111111_1000000000_0000000011_0000000000_111_00000,
     .vandn ⟨6, 5, true, true, 1023, 512, 3, 0, 7, 0, none⟩),
   (0b0010100_0110_101_1_1_1111111111_1000000000_0000000011_0000000000_111_00000,
     .vshl ⟨6, 5, true, true, 1023, 512, 3, 0, 7, 0, none⟩),
   (0b0010101_0110_101_1_1_1111111111_1000000000_0000000011_0000000000_111_00000,
     .vshr ⟨6, 5, true, true, 1023, 512, 3, 0, 7, 0, none⟩),
   (0b0010110_0110_101_1_1_1111111111_1000000000_0000000011_0000000000_111_00000,
     .vsar ⟨6, 5, true, true, 1023, 512, 3, 0, 7, 0, none⟩),
   (0b0011000_1000_101_1_0_0000000111_0000000010_0000000011_0000000000_111_10110,
     .vcmp ⟨8, 5, true, false, 7, 2, 3, 0, 7, 22, none⟩),
   (0b0011001_1000_110_0_0_0000000001_0000000010_0000000011_0000000000_111_00000,
     .vsel ⟨8, 6, false, false, 1, 2, 3, 0, 7, 0, none⟩),
   (0b0011010_0000_000_0_0_0000000111_0000000110_0000000101_0000000000_000_00000,
     .mand ⟨0, 0, false, false, 7, 6, 5, 0, 0, 0, none⟩),
   (0b0011011_0000_000_0_0_0000000111_0000000110_0000000101_0000000000_000_00000,
     .mor ⟨0, 0, false, false, 7, 6, 5, 0, 0, 0, none⟩)]
theorem test_decode_vector_1 : ∀ p ∈ vectorWords1, decodeWord .vector p.1 Pfx.none = some p.2 := by decide +kernel
def vectorWords2 : List (BitVec 64 × Instr) :=
  [(0b0011100_0000_000_0_0_0000000111_0000000110_0000000101_0000000000_000_00000,
     .mxor ⟨0, 0, false, false, 7, 6, 5, 0, 0, 0, none⟩),
   (0b0011101_0000_000_0_0_0000000111_0000000110_0000000101_0000000000_000_00000,
     .mandn ⟨0, 0, false, false, 7, 6, 5, 0, 0, 0, none⟩),
   (0b0011110_0001_000_0_0_0000111111_0000000110_0000000000_0000000000_000_00000,
     .mpop ⟨1, 0, false, false, 63, 6, 0, 0, 0, 0, none⟩),
   (0b0100000_1010_101_1_0_0000000001_0000000010_0000011000_0000000000_110_00001,
     .vcvt ⟨10, 5, true, false, 1, 2, 24, 0, 6, 1, none⟩),
   (0b0100001_1011_000_0_0_0000000001_0000000010_0000001000_0000000000_110_00000,
     .vqnt ⟨11, 0, false, false, 1, 2, 8, 0, 6, 0, none⟩),
   (0b0100010_1010_000_0_0_0000000001_0000000010_0000001100_0000000000_110_00000,
     .vdqnt ⟨10, 0, false, false, 1, 2, 12, 0, 6, 0, none⟩),
   (0b0101000_0010_101_1_0_0000000001_0000000010_0000000000_0000000000_110_00000,
     .vredsum ⟨2, 5, true, false, 1, 2, 0, 0, 6, 0, none⟩),
   (0b0101001_0010_101_1_0_0000000001_0000000010_0000000000_0000000000_110_00000,
     .vredmax ⟨2, 5, true, false, 1, 2, 0, 0, 6, 0, none⟩),
   (0b0101010_0010_101_1_0_0000000001_0000000010_0000000000_0000000000_110_00000,
     .vredmin ⟨2, 5, true, false, 1, 2, 0, 0, 6, 0, none⟩),
   (0b0110000_1000_101_1_1_0000000001_0000000010_0000000011_0000000000_111_00000,
     .vperm ⟨8, 5, true, true, 1, 2, 3, 0, 7, 0, none⟩),
   (0b0110001_0000_101_1_1_0000000001_0000000010_0000111111_0000000000_110_00000,
     .vbcast ⟨0, 5, true, true, 1, 2, 63, 0, 6, 0, none⟩),
   (0b0110001_1000_101_1_1_0000000001_0000000000_0000111111_0000000000_101_00001,
     .vbcastScalar ⟨8, 5, true, true, 1, 0, 63, 0, 5, 1, none⟩),
   (0b0110010_0001_101_1_1_0000000001_0000000000_0000111111_0000000000_101_00000,
     .vlane ⟨1, 5, true, true, 1, 0, 63, 0, 5, 0, none⟩),
   (0b0110011_0000_000_0_0_0000111111_0000000010_0000111111_0000000000_010_00000,
     .vmovs ⟨0, 0, false, false, 63, 2, 63, 0, 2, 0, none⟩),
   (0b0110100_0000_000_0_0_0000000001_0000111111_0000111111_0000000000_100_00000,
     .vmovl ⟨0, 0, false, false, 1, 63, 63, 0, 4, 0, none⟩),
   (0b0110101_0100_101_1_1_0000000001_0000000010_0000000011_0000000000_111_11111,
     .vslide ⟨4, 5, true, true, 1, 2, 3, 0, 7, 31, none⟩),
   (0b0110110_1000_101_1_1_0000000001_0000000010_0000000011_0000000000_111_00001,
     .vzip ⟨8, 5, true, true, 1, 2, 3, 0, 7, 1, none⟩),
   (0b0110111_1000_101_1_1_0000000001_0000000010_0000000011_0000000000_111_00001,
     .vunzip ⟨8, 5, true, true, 1, 2, 3, 0, 7, 1, none⟩),
   (0b0111000_1000_101_1_1_0000000001_0000000010_0000000000_0000000000_110_00000,
     .vrcp ⟨8, 5, true, true, 1, 2, 0, 0, 6, 0, none⟩),
   (0b0111001_1000_101_1_1_0000000001_0000000010_0000000000_0000000000_110_00000,
     .vrsqrt ⟨8, 5, true, true, 1, 2, 0, 0, 6, 0, none⟩),
   (0b0111010_1000_101_1_1_0000000001_0000000010_0000000000_0000000000_110_00000,
     .vexp2 ⟨8, 5, true, true, 1, 2, 0, 0, 6, 0, none⟩),
   (0b0111011_1000_101_1_1_0000000001_0000000010_0000000000_0000000000_110_00000,
     .vlog2 ⟨8, 5, true, true, 1, 2, 0, 0, 6, 0, none⟩),
   (0b0111100_1000_101_1_1_0000000001_0000000010_0000000000_0000000000_110_00000,
     .vtanh ⟨8, 5, true, true, 1, 2, 0, 0, 6, 0, none⟩),
   (0b1000000_1010_101_1_1_0000000001_0000111111_0000111110_0000000000_100_00001,
     .vrng ⟨10, 5, true, true, 1, 63, 62, 0, 4, 1, none⟩)]
theorem test_decode_vector_2 : ∀ p ∈ vectorWords2, decodeWord .vector p.1 Pfx.none = some p.2 := by decide +kernel
def matrixWords1 : List (BitVec 64 × Instr) :=
  [(0b0000000_1011_1101_1_11_110_101_1110_1001_1111_000000000101_0000000000000000,
     .mma ⟨11, 13, true, 3, 6, 5, 14, 9, 15, 5, 0, none⟩),
   (0b0000001_1100_1101_0_10_110_101_1110_1001_1111_000000110101_0000000000000100,
     .mmas ⟨12, 13, false, 2, 6, 5, 14, 9, 15, 53, 4, none⟩),
   (0b0001000_0000_0000_1_11_010_001_0000_0000_1110_000000000000_0000000000000000,
     .tadd ⟨0, 0, true, 3, 2, 1, 0, 0, 14, 0, 0, none⟩),
   (0b0001001_0000_0000_1_11_010_000_0000_0000_1100_000000000000_0000000000111111,
     .tscl ⟨0, 0, true, 3, 2, 0, 0, 0, 12, 0, 63, none⟩),
   (0b0010000_1000_0000_0_11_110_000_0000_0000_1100_000000000000_0000000000000000,
     .tcvt ⟨8, 0, false, 3, 6, 0, 0, 0, 12, 0, 0, none⟩),
   (0b0010001_1011_1000_0_00_110_101_1110_0000_0111_000000000000_0000000000000000,
     .tqnt ⟨11, 8, false, 0, 6, 5, 14, 0, 7, 0, 0, none⟩),
   (0b0011000_1011_0000_0_00_110_101_1110_0000_0111_000000000011_0000000000000100,
     .tcmpr ⟨11, 0, false, 0, 6, 5, 14, 0, 7, 3, 4, none⟩),
   (0b0011001_1100_0000_0_00_110_101_0000_0000_0110_000000000010_0000000000000100,
     .tdcmp ⟨12, 0, false, 0, 6, 5, 0, 0, 6, 2, 4, none⟩),
   (0b0100000_0000_0000_0_00_110_101_0000_0000_0110_000000000000_0000000000000000,
     .tmov ⟨0, 0, false, 0, 6, 5, 0, 0, 6, 0, 0, none⟩),
   (0b0110000_1101_111110_100000000000000000000000000000000000101_00000000,
     .mkat 13 62 274877906949)]
theorem test_decode_matrix_1 : ∀ p ∈ matrixWords1, decodeWord .matrix p.1 Pfx.none = some p.2 := by decide +kernel
def memoryWords1 : List (BitVec 64 × Instr) :=
  [(0b0000000_0110_01_100_0000111111_111110_100001_000_0_11_0000_1000000000000100,
     .ld ⟨6, 1, 4, 63, 62, 33, 0, false, 3, 0, (-32764), none⟩),
   (0b0000001_0110_10_011_0000111111_111110_100001_000_0_11_0000_1000000000000100,
     .st ⟨6, 2, 3, 63, 62, 33, 0, false, 3, 0, (-32764), none⟩),
   (0b0000010_1001_00_000_1111111111_111110_100001_111_1_11_0000_1000000000000100,
     .vld ⟨9, 0, 0, 1023, 62, 33, 7, true, 3, 0, (-32764), none⟩),
   (0b0000011_1001_00_000_1111111111_111110_100001_111_1_11_0000_1000000000000100,
     .vst ⟨9, 0, 0, 1023, 62, 33, 7, true, 3, 0, (-32764), none⟩),
   (0b0000100_1001_00_000_1111111111_111110_100001_111_1_11_0000_1000000000000100,
     .vlds ⟨9, 0, 0, 1023, 62, 33, 7, true, 3, 0, (-32764), none⟩),
   (0b0000101_1001_00_000_1111111111_111110_100001_111_1_11_0000_1000000000000100,
     .vsts ⟨9, 0, 0, 1023, 62, 33, 7, true, 3, 0, (-32764), none⟩),
   (0b0000110_0001_00_000_1111111111_111110_000000_111_1_11_0000_1000000000000100,
     .vgath ⟨1, 0, 0, 1023, 62, 0, 7, true, 3, 0, (-32764), none⟩),
   (0b0000111_0010_00_000_1111111111_111110_000000_111_1_11_0000_1000000000000100,
     .vscat ⟨2, 0, 0, 1023, 62, 0, 7, true, 3, 0, (-32764), none⟩),
   (0b0001000_0011_00_000_0000111111_111110_100001_000_0_11_0111_1000000000000100,
     .ldfar ⟨3, 0, 0, 63, 62, 33, 0, false, 3, 7, (-32764), none⟩),
   (0b0001001_1000_00_000_1111111111_111110_100001_111_1_11_0110_1000000000000100,
     .vldfar ⟨8, 0, 0, 1023, 62, 33, 7, true, 3, 6, (-32764), none⟩),
   (0b0010000_0000_00_000_0000000000_000000_000000_000_0_00_0000_0000000000000000,
     .qmark ⟨0, 0, 0, 0, 0, 0, 0, false, 0, 0, 0, none⟩),
   (0b0010001_0000_11_100_0000000000_000000_000000_000_0_00_0000_0000000000000000,
     .fence ⟨0, 3, 4, 0, 0, 0, 0, false, 0, 0, 0, none⟩),
   (0b0011000_0010_11_100_0000111111_111110_100001_000_0_10_1000_1000000000000100,
     .atom ⟨2, 3, 4, 63, 62, 33, 0, false, 2, 8, (-32764), none⟩),
   (0b0100000_0000_00_000_0000000000_111110_000000_000_0_10_0000_1000000000000100,
     .arrive ⟨0, 0, 0, 0, 62, 0, 0, false, 2, 0, (-32764), none⟩),
   (0b0100001_0000_00_000_0000111111_111110_000000_000_0_11_0000_1000000000000100,
     .waitp ⟨0, 0, 0, 63, 62, 0, 0, false, 3, 0, (-32764), none⟩),
   (0b0100010_0000_00_000_1111111111_111110_111101_000_0_11_0000_1000000000000100,
     .berth ⟨0, 0, 0, 1023, 62, 61, 0, false, 3, 0, (-32764), none⟩),
   (0b0100011_0000_00_000_0000111111_111110_000000_000_0_11_0000_1000000000000100,
     .ownx ⟨0, 0, 0, 63, 62, 0, 0, false, 3, 0, (-32764), none⟩),
   (0b0100100_0111_01_010_0000111111_111110_100001_000_0_11_0000_1000000000000100,
     .monarm ⟨7, 1, 2, 63, 62, 33, 0, false, 3, 0, (-32764), none⟩),
   (0b0100101_0000_00_000_0000111111_000000_100001_000_0_01_0000_0000000000000000,
     .monwait ⟨0, 0, 0, 63, 0, 33, 0, false, 1, 0, 0, none⟩),
   (0b0101000_0000_00_000_0000000000_111110_100001_000_0_10_0110_1000000000000100,
     .pref ⟨0, 0, 0, 0, 62, 33, 0, false, 2, 6, (-32764), none⟩),
   (0b0101001_0000_00_000_0000000000_111110_100001_000_0_10_0000_1000000000000100,
     .cwb ⟨0, 0, 0, 0, 62, 33, 0, false, 2, 0, (-32764), none⟩),
   (0b0101010_0000_00_000_0000000000_111110_100001_000_0_10_0000_1000000000000100,
     .cinv ⟨0, 0, 0, 0, 62, 33, 0, false, 2, 0, (-32764), none⟩),
   (0b0101010_0000_00_000_0000000000_000000_000000_000_0_00_0001_0000000000000000,
     .cinvAll ⟨0, 0, 0, 0, 0, 0, 0, false, 0, 1, 0, none⟩),
   (0b0101100_0000_00_000_0000111111_111110_000000_000_0_11_1001_1000000000000100,
     .tagset ⟨0, 0, 0, 63, 62, 0, 0, false, 3, 9, (-32764), none⟩)]
theorem test_decode_memory_1 : ∀ p ∈ memoryWords1, decodeWord .memory p.1 Pfx.none = some p.2 := by decide +kernel
def memoryWords2 : List (BitVec 64 × Instr) :=
  [(0b0101101_0000_00_000_0000111111_111110_000000_000_0_11_0000_1000000000000100,
     .tagrd ⟨0, 0, 0, 63, 62, 0, 0, false, 3, 0, (-32764), none⟩),
   (0b0110000_1011_01_011_0000000111_111110_100001_101_1_11_0011_1000000000000100,
     .tld ⟨11, 1, 3, 7, 62, 33, 5, true, 3, 3, (-32764), none⟩),
   (0b0110001_1001_00_000_0000001011_111110_100001_000_0_11_0000_1000000000000100,
     .tst ⟨9, 0, 0, 11, 62, 33, 0, false, 3, 0, (-32764), none⟩),
   (0b0110010_0000_00_000_0000000000_111110_000000_000_0_10_0000_1000000000000100,
     .tcfg ⟨0, 0, 0, 0, 62, 0, 0, false, 2, 0, (-32764), none⟩),
   (0b0110011_0000_00_000_0000000000_111110_000000_000_0_10_0000_1000000000000100,
     .tsave ⟨0, 0, 0, 0, 62, 0, 0, false, 2, 0, (-32764), none⟩),
   (0b0110100_0000_00_000_0000000000_111110_000000_000_0_10_0000_1000000000000100,
     .trest ⟨0, 0, 0, 0, 62, 0, 0, false, 2, 0, (-32764), none⟩),
   (0b0110101_1101_00_000_0000000111_111110_111100_000_0_11_0110_1000000000000100,
     .tsend ⟨13, 0, 0, 7, 62, 60, 0, false, 3, 6, (-32764), none⟩),
   (0b0111000_0000_00_000_0000000000_000000_000000_000_0_00_0000_0000000000000000,
     .trigger ⟨0, 0, 0, 0, 0, 0, 0, false, 0, 0, 0, none⟩),
   (0b0111001_0000_00_000_0000111111_111110_000000_000_0_00_0000_1000000000000100,
     .spawn ⟨0, 0, 0, 63, 62, 0, 0, false, 0, 0, (-32764), none⟩),
   (0b0111010_0000_00_000_0000111111_111110_000000_000_0_00_0000_1000000000000100,
     .launch ⟨0, 0, 0, 63, 62, 0, 0, false, 0, 0, (-32764), none⟩),
   (0b0111011_0000_00_000_0000111111_111110_100001_000_0_00_0000_1000000000000100,
     .gssnext ⟨0, 0, 0, 63, 62, 33, 0, false, 0, 0, (-32764), none⟩)]
theorem test_decode_memory_2 : ∀ p ∈ memoryWords2, decodeWord .memory p.1 Pfx.none = some p.2 := by decide +kernel
def auxWords1 : List (BitVec 64 × Instr) :=
  [(0b0000000_1111111110_1111_00100_111110,
     .sld ⟨1022, 15, 4, 62⟩),
   (0b0001000_1111111110_1011_11111_111110,
     .trw ⟨1022, 11, 31, 62⟩),
   (0b0001001_1111111110_1011_11111_111110,
     .trr ⟨1022, 11, 31, 62⟩),
   (0b0001010_1111111110_1011_11111_111110,
     .tcw ⟨1022, 11, 31, 62⟩),
   (0b0001011_1111111110_1011_11111_111110,
     .tcr ⟨1022, 11, 31, 62⟩),
   (0b0001100_0000000000_1011_00000_000000,
     .tzero ⟨0, 11, 0, 0⟩),
   (0b0010000_0000000000_1011_00000_111110,
     .brd ⟨0, 11, 0, 62⟩),
   (0b0010001_0000000000_1011_00000_111110,
     .bwr ⟨0, 11, 0, 62⟩),
   (0b0010010_0000000000_1011_01111_000000,
     .bchk ⟨0, 11, 15, 0⟩),
   (0b0010011_0000000000_1011_00000_000000,
     .bclr ⟨0, 11, 0, 0⟩),
   (0b0011000_0000000000_1001_00001_111110,
     .sgrd ⟨0, 9, 1, 62⟩),
   (0b0011001_0000000000_1010_00000_000000,
     .sgclr ⟨0, 10, 0, 0⟩),
   (0b0100000_1111111110_1111_00000_000000,
     .kwr ⟨1022, 15, 0, 0⟩),
   (0b0100001_1111111110_1111_00000_000000,
     .krd ⟨1022, 15, 0, 0⟩)]
theorem test_decode_aux_1 : ∀ p ∈ auxWords1, decodeWord .aux p.1 Pfx.none = some p.2 := by decide +kernel

/-! ### States for the witnesses -/

/-- The package in full service: every stack and link trained. -/
def booted : State := State.reset.setCreg 0x7FFFF00700008 0x8000FFFF03FFFFFF
/-- A context in slot 0 of core 0, with the focus on it. -/
def inSlot (x : Ctx) : State := booted.setCtx 0 0 x
/-- Configured operand tiles: `l` gives the row bytes of each, 32 rows. -/
def tiled (l : List Nat) : Ctx :=
  { Ctx.first with a := { Arch.zero with ton := true, shape := l.zipIdx.map fun p => (p.2, ⟨32, p.1⟩) } }
/-- Extents of plain memory, of barrier objects, of range units and of another core's scratchpad, with pointers to them in s1 to s4; s8 is a
berth's length and s5 an item's. -/
def reaching : Ctx :=
  { tiled [72, 72] with
    ext := [⟨0x10000, 0x40000000, 0x20000, 0, 0, false, false, true, true, true⟩,
      ⟨0x40000, 0x7FFFF06000000, 0x1000, 0, 2, true, false, false, true, true⟩,
      ⟨0x50000, 0x7FFFF00320000, 0x1000, 0, 2, true, false, false, true, true⟩,
      ⟨0x60000, 0x20000080000, 0x8000, 0, 2, false, false, false, true, true⟩]
    a := { (tiled [72, 72]).a with
      sr := [(1, 0x10000), (2, 0x40000), (3, 0x50000), (4, 0x60000), (5, 16), (6, 0xFFFFFDF80000), (8, 64), (9, 0x10040), (10, 0x10800), (20, 72), (23, 0x10008)]
      mr := [(1, 3), (3, 13)], pr := 2 } }
def memSt : State := inSlot reaching
/-- A word of a load, store or synchronisation operation. -/
def lop (ty : BitVec 4) (d : BitVec 10) (b x : Reg) (fn : BitVec 4) (disp : Word) : LOp := ⟨ty, 0, 0, d, b, x, 0, false, 0, fn, disp, none⟩

/-! ### Every operation may execute somewhere -/

/-- Tile shapes that the matrix words above need. -/
def matrixShapes : List (List Nat) :=
  [[0, 0, 0, 0, 0, 72, 144], [0, 0, 0, 0, 48, 48, 108], [0, 0, 0], [0, 0, 0], [0, 0, 0, 0, 0, 0, 128], [0, 0, 0, 0, 0, 144, 36],
   [0, 0, 0, 0, 48, 144, 96], [0, 0, 0, 0, 36, 56, 108], [0, 0, 0, 0, 0, 144, 144], [0]]
theorem witness_ready_matrix : ∀ p ∈ matrixWords1.zip matrixShapes, Ready p.1.2 (inSlot (tiled p.2)) := by decide +kernel
def plainWords : List (BitVec 64 × Instr) :=
  (scalarWords1 ++ scalarWords2 ++ scalarWords3 ++ vectorWords1 ++ vectorWords2 ++ memoryWords1 ++ memoryWords2 ++ auxWords1).filter
    fun p => p.2 != .eret
theorem witness_ready : ∀ p ∈ plainWords, Ready p.2 (inSlot (tiled [72, 72, 72, 72, 72, 72, 72, 72])) := by decide +kernel
theorem witness_ready_eret : Ready .eret (inSlot { Ctx.first with a := { Arch.zero with ctxmode := 1 } }) := by decide +kernel

/-! ### Accesses at their issue -/

theorem witness_scalar_load : Ready (.ld (lop 7 10 1 5 0 0)) memSt ∧ Ready (.monarm (lop 7 10 1 5 0 0)) memSt ∧ Ready (.ldfar (lop 7 10 1 5 7 0)) memSt
    ∧ ∃ ps, issueTr memSt.cx 0 ⟨true, false, false⟩ [⟨memSt.S 1, memSt.S 1 + memSt.S 5 + 0, 8, 0⟩] = .ok ps ∧ inCtl ps = false
      ∧ (memSt.S 1 + memSt.S 5 + 0).toNat % 8 = 0 :=
  ⟨by decide +kernel, by decide +kernel, by decide +kernel, _, rfl, by decide +kernel, by decide +kernel⟩
theorem witness_ctl_load : Ready (.ld (lop 7 10 2 0 0 8)) memSt
    ∧ ∃ ps, issueTr memSt.cx 0 ⟨true, false, false⟩ [⟨memSt.S 2, memSt.S 2 + memSt.S 0 + 8, 8, 0⟩] = .ok ps ∧ inCtl ps = true
      ∧ (memSt.S 2 + memSt.S 0 + 8).toNat % 8 = 0 :=
  ⟨by decide +kernel, _, rfl, by decide +kernel, by decide +kernel⟩
theorem witness_tagrd : Ready (.tagrd (lop 0 10 1 0 0 0)) memSt
    ∧ ∃ ps, issueTr memSt.cx 0 ⟨true, false, false⟩ [⟨memSt.S 1, memSt.S 1 + 0, 1, 0⟩] = .ok ps
      ∧ ∀ p ∈ ps, ∀ t, p.tr = some t → tagged t.pa = true :=
  ⟨by decide +kernel, _, rfl, by decide +kernel⟩
/-- The pieces of an access that the checks pass, with what is asked of them. -/
def passes (r : IssueTr) (f : List Piece → Bool) : Bool := match r with | .ok ps => f ps | .bad _ _ _ => false
/-- All lanes of .z64, and the first two. -/
def allLanes : LOp := lop 7 20 1 5 0 0
def twoLanes : LOp := ⟨7, 0, 0, 20, 1, 5, 1, true, 0, 0, 0, none⟩
def noLanes : LOp := ⟨7, 0, 0, 20, 1, 5, 2, true, 0, 0, 0, none⟩
def gapLanes : LOp := ⟨7, 0, 0, 20, 1, 5, 3, true, 0, 0, 0, none⟩
/-- A contiguous access at a run of every group of active lanes. -/
def atGroups (o : LOp) : List Run1 :=
  (laneGroups (memSt.lanesOn o)).map fun g => ⟨memSt.S o.b, memSt.S 1 + memSt.S 5 + 0 + BitVec.ofNat 64 (8 * g.1), 8 * g.2, 8 * g.1⟩
/-- A vector access at a run of every lane that is active. -/
def atLanes (o : LOp) (f : Nat → Word) : List Run1 := (memSt.lanesOn o).map fun i => ⟨memSt.S o.b, f i, 8, 8 * i⟩
theorem witness_vector_contiguous : (∀ i ∈ [Instr.vld allLanes, .vst allLanes, .vldfar allLanes], Ready i memSt)
    ∧ memSt.lanesOn allLanes ≠ [] ∧ (memSt.lanesOn allLanes).length = laneCount 7
    ∧ (∃ ps, issueTr memSt.cx 0 ⟨true, false, false⟩ [⟨memSt.S 1, memSt.S 1 + memSt.S 5 + 0, 64, 0⟩] = .ok ps ∧ inCtl ps = false)
    ∧ ∃ ps, issueTr memSt.cx 0 ⟨false, true, false⟩ [⟨memSt.S 1, memSt.S 1 + memSt.S 5 + 0, 64, 0⟩] = .ok ps ∧ inCtl ps = false :=
  ⟨by decide +kernel, by decide +kernel, by decide +kernel, ⟨_, rfl, by decide +kernel⟩, _, rfl, by decide +kernel⟩
theorem witness_vector_masked : (∀ i ∈ [Instr.vld twoLanes, .vst twoLanes], Ready i memSt) ∧ memSt.lanesOn twoLanes = [0, 1]
    ∧ laneGroups (memSt.lanesOn twoLanes) = [(0, 2)] ∧ laneGroups (memSt.lanesOn gapLanes) = [(0, 1), (2, 2)]
    ∧ ∀ o ∈ [twoLanes, gapLanes], Ready (.vld o) memSt ∧ passes (issueTr memSt.cx 0 ⟨true, true, false⟩ (atGroups o)) (fun ps => !inCtl ps) = true := by
  decide +kernel
def indexed : LOp := lop 7 20 1 0 0 0
theorem witness_vector_scattered : (∀ i ∈ [Instr.vlds allLanes, .vsts allLanes, .vgath indexed, .vscat indexed], Ready i memSt)
    ∧ passes (issueTr memSt.cx 0 ⟨true, true, false⟩ (atLanes allLanes fun i => memSt.S 1 + 0 + BitVec.ofNat 64 i * memSt.S 5))
        (fun ps => !inCtl ps) = true
    ∧ passes (issueTr memSt.cx 0 ⟨true, true, false⟩ (atLanes indexed fun i =>
        memSt.S 1 + 0 + BitVec.ofInt 64 (laneInt 7 (lane 64 (memSt.V (20 + 1)) i) * 8))) (fun ps => !inCtl ps) = true := by decide +kernel
theorem witness_vector_none : (∀ i ∈ [Instr.vld noLanes, .vldfar noLanes, .vlds noLanes, .vst noLanes, .vsts noLanes], Ready i memSt)
    ∧ memSt.lanesOn noLanes = [] := by decide +kernel
theorem witness_store : Ready (.st (lop 7 10 1 5 0 0)) memSt ∧ Ready (.st ⟨7, 2, 3, 10, 1, 5, 0, false, 0, 0, 0, none⟩) memSt
    ∧ ∃ ps, issueTr memSt.cx 0 ⟨false, true, false⟩ [⟨memSt.S 1, memSt.S 1 + memSt.S 5 + 0, 8, 0⟩] = .ok ps ∧ inCtl ps = false :=
  ⟨by decide +kernel, by decide +kernel, _, rfl, by decide +kernel⟩
/-- A berth of 64 bytes with handler and argument in s6 and s7. -/
theorem witness_berth : Ready (.berth (lop 0 20 4 6 0 0)) memSt ∧ (memSt.cx.a.rdS 8).toNat = 64
    ∧ ∃ ps, issueTr memSt.cx 0 ⟨false, true, false⟩ [⟨memSt.S 4, memSt.S 4 + 0, 64, 0⟩] = .ok ps ∧ (memSt.S 4 + 0).toNat % 8 = 0
      ∧ oneWindow (memSt.S 4 + 0) ps = true :=
  ⟨by decide +kernel, by decide +kernel, _, rfl, by decide +kernel⟩
theorem witness_cwb_tagset : Ready (.cwb (lop 0 0 1 0 0 0)) memSt ∧ Ready (.tagset (lop 0 10 1 0 15 0)) memSt
    ∧ (∃ ps, issueTr memSt.cx 0 ⟨true, false, false⟩ [⟨memSt.S 1, memSt.S 1 + memSt.S 0 + 0, 1, 0⟩] = .ok ps)
    ∧ ∃ ps, issueTr memSt.cx 0 ⟨false, true, false⟩
        ((List.range 16).map fun i => ⟨memSt.S 1, memSt.S 1 + 0 + BitVec.ofNat 64 (32 * i), 32, 32 * i⟩) = .ok ps
      ∧ (memSt.S 1 + 0).toNat % 32 = 0 ∧ ∀ p ∈ ps, ∀ t, p.tr = some t → tagged t.pa = true :=
  ⟨by decide +kernel, by decide +kernel, ⟨_, rfl⟩, _, rfl, by decide +kernel⟩
theorem witness_atom : Ready (.atom (lop 7 10 1 5 0 0)) memSt
    ∧ ∃ ps, issueTr memSt.cx 0 ⟨true, true, false⟩ [⟨memSt.S 1, memSt.S 1 + 0, 8, 0⟩] = .ok ps ∧ (memSt.S 1 + 0).toNat % 8 = 0
      ∧ ∀ pa, firstPa ps = some pa → atomMeets pa 0 7 = none :=
  ⟨by decide +kernel, _, rfl, by decide +kernel⟩
theorem witness_sync : Ready (.arrive (lop 0 0 2 0 0 0)) memSt ∧ Ready (.waitp (lop 0 10 2 0 0 0)) memSt ∧ Ready (.ownx (lop 0 10 1 0 0 0)) memSt
    ∧ Ready (.trigger (lop 0 0 0 0 0 0)) memSt ∧ Ready (.spawn (lop 0 10 1 0 0 0)) memSt ∧ Ready (.launch (lop 0 9 1 0 0 0)) memSt
    ∧ Ready (.gssnext (lop 0 10 3 5 0 0)) memSt ∧ Ready (.qmark (lop 0 0 0 0 0 0)) memSt
    ∧ Ready (.fence ⟨0, 3, 4, 0, 0, 0, 0, false, 0, 0, 0, none⟩) memSt
    ∧ (∃ ps, issueTr memSt.cx 0 ⟨false, true, false⟩ [⟨memSt.S 2, memSt.S 2 + 0, 8, 0⟩] = .ok ps ∧ ps.length = 1 ∧ knownAll ps isBarrier = true)
    ∧ (∃ ps, issueTr memSt.cx 0 ⟨true, false, false⟩ [⟨memSt.S 2, memSt.S 2 + 0, 8, 0⟩] = .ok ps ∧ ps.length = 1 ∧ knownAll ps isBarrier = true)
    ∧ (∃ ps, issueTr memSt.cx 0 ⟨true, true, false⟩ [⟨memSt.S 1, memSt.S 1 + 0, 1, 0⟩] = .ok ps
        ∧ anyIn ps (fun r => !(r == .hbm || r == .llc)) = false)
    ∧ (∃ ps, issueTr memSt.cx 0 ⟨true, false, false⟩ [⟨memSt.S 1, memSt.S 1 + 0, 64, 0⟩] = .ok ps ∧ (memSt.S 1 + 0).toNat % 64 = 0
        ∧ anyIn ps (fun r => r != .hbm) = false ∧ inCtl ps = false)
    ∧ (∃ ps, issueTr memSt.cx 0 ⟨false, true, false⟩ [⟨memSt.S 9, memSt.S 9, 1, 64⟩] = .ok ps ∧ (memSt.S 9).toNat % 64 = 0
        ∧ anyIn ps (fun r => r != .hbm) = false)
    ∧ ∃ ps, issueTr memSt.cx 0 ⟨false, true, false⟩ [⟨memSt.S 3, memSt.S 3 + 0, 32, 0⟩] = .ok ps ∧ (memSt.S 3 + 0).toNat % 32 = 0
      ∧ knownAll ps isRangeUnit = true :=
  ⟨by decide +kernel, by decide +kernel, by decide +kernel, by decide +kernel, by decide +kernel, by decide +kernel, by decide +kernel,
    by decide +kernel, by decide +kernel, ⟨_, rfl, by decide +kernel⟩, ⟨_, rfl, by decide +kernel⟩, ⟨_, rfl, by decide +kernel⟩,
    ⟨_, rfl, by decide +kernel⟩, ⟨_, rfl, by decide +kernel⟩, _, rfl, by decide +kernel⟩
def triggered : State := inSlot { reaching with triggered := true }
theorem witness_trigger : memSt.hasTriggered 0 0 = false ∧ triggered.hasTriggered 0 0 = true ∧ Ready (.trigger (lop 0 0 0 0 0 0)) triggered := by
  decide +kernel
theorem witness_monwait : Ready (.monwait (lop 0 10 0 5 0 0)) (inSlot { Ctx.first with mon := .armed 7 }) := by decide +kernel
theorem witness_prefetch : Ready (.pref (lop 0 0 0 0 0 0)) memSt ∧ Ready (.pref (lop 0 0 1 0 4 0)) memSt ∧ Ready (.cinv (lop 0 0 1 0 0 0)) memSt
    ∧ Ready (.cinvAll (lop 0 0 0 0 1 0)) memSt ∧ extRead memSt.cx 0 0 64 = none ∧ (extRead memSt.cx 0 0x10000 64).isSome
    ∧ nonCanonical (memSt.S 1) (memSt.S 1) = false
    ∧ trExt memSt.cx.ext memSt.cx.lw 0 0x10000 1 ⟨false, false, false⟩ = .hit ⟨0x40000000, 0, false, 0, false, false⟩ false := by decide +kernel

/-! ### Tile accesses at their issue -/

/-- t0 (32 rows of 72 bytes) at s1, with a count of S[0] = 0 in the second. -/
def tileOp : LOp := lop 13 0 1 0 0 0
def tileOp0 : LOp := ⟨13, 0, 0, 0, 1, 0, 0, false, 0, 0, 0, some 0⟩
theorem witness_tile_access : Ready (.tld tileOp) memSt ∧ Ready (.tst tileOp) memSt ∧ Ready (.tld tileOp0) memSt ∧ Ready (.tst tileOp0) memSt
    ∧ memSt.cnt (some 0) = 0 ∧ memSt.tileAddrBad tileOp 72 false = none
    ∧ ∃ ps, issueTr memSt.cx 0 ⟨true, true, false⟩ (memSt.rowRuns tileOp 32 72) = .ok ps ∧ inCtl ps = false :=
  ⟨by decide +kernel, by decide +kernel, by decide +kernel, by decide +kernel, by decide +kernel, by decide +kernel, _, rfl, by decide +kernel⟩
/-- tsend of t0 to another core's berths, with a completion word at s23. -/
def sendOp : LOp := lop 13 0 4 20 6 0
theorem witness_tile_send : Ready (.tsend sendOp) memSt ∧ memSt.tileAddrBad sendOp 72 false = none ∧ memSt.stride sendOp 72 = 72
    ∧ (memSt.S 4 + 0).toNat % 8 = 0 ∧ (memSt.cx.a.rdS 23).toNat % 8 = 0
    ∧ ∃ ps, issueTr memSt.cx 0 ⟨false, true, false⟩ (memSt.rowRuns sendOp 32 72 ++ [⟨memSt.cx.a.rdS 23, memSt.cx.a.rdS 23, 8, 2304⟩]) = .ok ps
      ∧ ∀ p ∈ ps, ∀ t, p.tr = some t → regionOf t.pa ≠ .ctl ∧ regionOf t.pa ≠ .host ∧ regionOf t.pa ≠ .peer
        ∧ (p.off < 2304 → regionOf t.pa = .spad) :=
  ⟨by decide +kernel, by decide +kernel, by decide +kernel, by decide +kernel, by decide +kernel, _, rfl, by decide +kernel⟩
theorem witness_tile_configuration : Ready (.tcfg (lop 0 0 1 0 0 0)) memSt ∧ Ready (.trest (lop 0 0 1 0 0 0)) memSt ∧ Ready (.tsave (lop 0 0 1 0 0 0)) memSt
    ∧ passes (issueTr memSt.cx 0 ⟨true, false, false⟩ [⟨memSt.S 1, memSt.S 1 + 0, 64, 0⟩]) (fun ps => !inCtl ps) = true
    ∧ passes (issueTr memSt.cx 0 ⟨true, true, false⟩ [⟨memSt.S 1, memSt.S 1 + 0, 70016, 0⟩]) (fun ps => !inCtl ps) = true
    ∧ passes (issueTr memSt.cx 0 ⟨false, true, false⟩ (memSt.cx.a.image.foldl (fun (p : List Run1 × Nat) q =>
        (p.1 ++ [⟨memSt.S 1, memSt.S 1 + 0 + BitVec.ofNat 64 q.1, q.2.length, p.2⟩], p.2 + q.2.length)) ([], 0)).1)
        (fun ps => !inCtl ps) = true := by decide +kernel
/-- A store to the own scratchpad by a context whose record does not allow it. -/
theorem witness_refused : Ready (.st (lop 7 10 6 0 0 0)) memSt ∧ Ready (.ld (lop 7 10 6 0 0 0)) memSt ∧ mwf .zero memSt.ctxs = true
    ∧ issueTr memSt.cx 0 ⟨false, true, false⟩ [⟨memSt.S 6, memSt.S 6 + memSt.S 0 + 0, 8, 0⟩] = .bad 3 0xFFFFFDF80000 0x20000000000
    ∧ issueTr memSt.cx 0 ⟨true, false, false⟩ [⟨memSt.S 6, memSt.S 6 + memSt.S 0 + 0, 8, 0⟩] = .bad 3 0xFFFFFDF80000 0x20000000000 :=
  ⟨by decide +kernel, by decide +kernel, by decide +kernel, rfl, rfl⟩

/-! ### Control, traps and CSRs -/

theorem witness_suspend : Ready (.suspend 2 1 5) memSt ∧ Ready (.suspend 1 2 5) memSt ∧ Ready (.suspend 0 0 0) memSt
    ∧ passes (issueTr memSt.cx 0 ⟨true, false, false⟩ [⟨memSt.S 1, memSt.S 1, 4, 0⟩]) (fun _ => (memSt.S 1).toNat % 4 = 0) = true
    ∧ passes (issueTr memSt.cx 0 ⟨true, false, false⟩ [⟨memSt.S 2, memSt.S 2, 8, 0⟩]) (fun _ => (memSt.S 2).toNat % 8 = 0) = true := by
  decide +kernel
theorem witness_branches : (memSt.P 1 ^^ false) = true ∧ ¬(memSt.P 1 ^^ true) = true ∧ Ready (.br 1 true 0) memSt ∧ Ready (.call 1 false 0) memSt
    ∧ Ready (.csrw 0x20 5) memSt ∧ Ready (.csrc 0x35 5) memSt
    ∧ Ready (.csrw 0x31 5) memSt := by decide +kernel
/-- A core whose context 0 owns banks 0 and 15. -/
def owner : State := memSt.setCore 0 { Core.zero with bankassign := 0x800100000000 }
theorem witness_bankmode : ∀ b ∈ [0, 15], Ready (.csrw (BitVec.ofNat 13 (0x40 + b)) 2) owner
    ∧ ((owner.core 0).bankassign.getLsbD (32 + b) = true ∧ (owner.core 0).bankassign.extractLsb' (2 * b) 2 = 0)
    ∧ (owner.core 0).capr ≠ 256 ∧ (mget 0 (owner.core 0).bankmode b).getLsbD 7 = false
    ∧ ((8 : Word)).extractLsb' 2 2 ≠ 3 ∧ ((8 : Word)).extractLsb' 2 2 ≠ (mget 0 (owner.core 0).bankmode b).extractLsb' 0 2 := by
  decide +kernel
theorem witness_bankmode_other : Ready (.csrw 0x4E 2) owner ∧ ¬(owner.core 0).bankassign.getLsbD (32 + 14) = true := by decide +kernel
def trapping (i : Instr) : State := inSlot { Ctx.first with post := some i, a := { Arch.zero with trapvec := 0x2001, pc := 0x1008 } }
theorem witness_trap : ((trapping (.trap 9)).ctx 0 0).post = some (.trap 9) ∧ ((trapping (.trap 9)).ctx 0 0).a.trapvec.getLsbD 0 = true
    ∧ ((trapping (.trap 9)).ctx 0 0).a.ctxmode.getLsbD 0 = false := by decide +kernel
/-- R292: the handler starts at TRAPVEC.ADDR in supervisor mode, and eret is back at the bundle. -/
theorem test_trap_entry : ((((trapping (.trap 9)).settle 0 0).ctx 0 0).a.pc, (((trapping (.trap 9)).settle 0 0).ctx 0 0).a.ctxmode,
    (((trapping (.trap 9)).settle 0 0).ctx 0 0).a.trappc) = (0x2000, 1, 0x1008) := by decide +kernel
theorem witness_posted : ((trapping .eret).ctx 0 0).post = some .eret ∧ ((trapping .retire).ctx 0 0).post = some .retire
    ∧ ((trapping .suspendDorm).ctx 0 0).post = some .suspendDorm ∧ ((trapping .suspendDorm).core 0).berthq = []
    ∧ ((trapping .ifenceAll).ctx 0 0).post = some .ifenceAll ∧ ((trapping .ifenceAll).ctx 0 0).sq = [] ∧ ((trapping .ifenceAll).ctx 0 0).rq = []
    ∧ ((trapping (.ifence 1 1023)).ctx 0 0).post = some (.ifence 1 1023) ∧ ((trapping .iswap).ctx 0 0).post = some .iswap
    ∧ ((trapping .iswap).core 0).stage = [] := by decide +kernel
/-- A loopn whose body is the bundle at 0x1008, with E and no word; with one bound 0, and with none. -/
def looping (n : BitVec 32) : State :=
  let s := trapping (.loopn 3 2)
  (s.setCtx 0 0 { s.ctx 0 0 with postIn := ⟨0, 0, [(0, 5), (1, n)]⟩ }).setCore 0 { Core.zero with
    istore := [⟨false, 0, 0x40, lineOf (List.replicate 8 0 ++ leBytes 8 0x1001555)⟩] }
theorem witness_loopn : ((looping 0).ctx 0 0).post = some (.loopn 3 2) ∧ ((looping 0).ctx 0 0).opened = false
    ∧ ((looping 0).ctx 0 0).held = false ∧ bodyAt ((looping 0).core 0) ((looping 0).ctx 0 0).asid ((looping 0).ctx 0 0).a.pc 16 0 = .ok 1 0x1010 ∧ mget 0 ((looping 0).ctx 0 0).postIn.lc 1 = 0 := by
  decide +kernel
theorem witness_loopn_active : ((looping 7).ctx 0 0).post = some (.loopn 3 2) ∧ ((looping 7).ctx 0 0).opened = false
    ∧ ((looping 7).ctx 0 0).held = false ∧ bodyAt ((looping 7).core 0) ((looping 7).ctx 0 0).asid ((looping 7).ctx 0 0).a.pc 16 0 = .ok 1 0x1010
    ∧ mget 0 ((looping 7).ctx 0 0).postIn.lc 0 = 5 ∧ mget 0 ((looping 7).ctx 0 0).postIn.lc 1 = 7 := by decide +kernel
/-- R263: the nest is active at its first bundle. -/
theorem test_loopn : (((looping 7).settle 0 0).ctx 0 0).a.dims = 2 ∧ mget 0 (((looping 7).settle 0 0).ctx 0 0).a.lbnd 1 = 7
    ∧ (((looping 0).settle 0 0).ctx 0 0).a.pc = 0x1010 := by decide +kernel
/-- An operation of a register beyond the record's budget, and one of an unconfigured tile, with and without a handler. -/
def poor : State := inSlot { Ctx.first with recd := [(6, 1)] }
theorem witness_illegal : Instr.slotClass (.vadd ⟨3, 0, false, false, 64, 0, 0, 0, 0, 0, none⟩) = some .vector ∧ poor.cx.dbg = false
    ∧ opLegal poor.cx false (.vadd ⟨3, 0, false, false, 64, 0, 0, 0, 0, 0, none⟩) = false := by decide +kernel
theorem witness_tile_fault : opLegal poor.cx false (.tzero ⟨0, 3, 0, 0⟩) = true ∧ tileFault poor.cx.a (.tzero ⟨0, 3, 0, 0⟩) = some (3, 1)
    ∧ poor.cx.a.trapvec.getLsbD 0 = false ∧ tileFault (trapping .eret).cx.a (.tzero ⟨0, 11, 0, 0⟩) = some (11, 1)
    ∧ (trapping .eret).cx.a.trapvec.getLsbD 0 = true ∧ (trapping .eret).cx.a.ctxmode.getLsbD 0 = false := by decide +kernel

/-! ### The queues and the memory -/

/-- An access of eight bytes at physical address `pa`. -/
def pieceAt (pa : Nat) : Piece := ⟨0x10000, 8, 0, some ⟨pa, 0, false, 0, false, false⟩⟩
def entryOf (k : EKind) (ps : List Piece) (bs : List Byte) : Entry :=
  ⟨5, 0x1000, .L, 0, k, ps, bs, none, none, false, none, false, false, false, false, 0, false, 0, none, [], false, false⟩
def queued (l s r : List Entry) : State := inSlot { Ctx.first with seq := 9, lq := l, sq := s, rq := r }
/-- What the statements on loads and stores ask of an entry at the head of its queue. -/
def loadReady (e : Entry) : Bool :=
  let s := queued [e] [] []
  let x := s.ctx 0 0
  x.marks = [] && !x.dbg && x.lq[0]? = some e && !e.reported && !e.left && e.acq.isNone && e.pieces = [pieceAt 0x1000]
    && regionOf 0x1000 == .hbm && mget 0 s.ecc (0x1000 / 64) = 0 && ((s.core 0).cached 0x1000).isNone && (x.rq ++ x.sq ++ x.pound).isEmpty && e.got.isEmpty && !e.void && !s.lineBusy 0 0 e (pieceAt 0x1000)
    && s.loadOrder 0 0 e && s.homeCheck (x.actor 0 0) (pieceAt 0x1000) ⟨0x1000, 0, false, 0, false, false⟩ false == .ok
theorem witness_loads : loadReady (entryOf (.ld 10 8 false) [pieceAt 0x1000] []) = true
    ∧ loadReady (entryOf (.vld 1023 8 1 0) [pieceAt 0x1000] []) = true := by decide +kernel
def storeReady (e : Entry) : Bool :=
  let s := queued [] [e] []
  let x := s.ctx 0 0
  mwf .zero s.ctxs && x.marks = [] && !x.dbg && x.sq[0]? = some e && !e.left && e.park.isNone && e.acq.isNone && e.pieces = [pieceAt 0x1000]
    && mget 0 s.ecc (0x1000 / 64) = 0 && !s.poisoned 0x1000 && ((s.core 0).cached 0x1000).isNone && s.mayLeave 0 0 e
    && (s.sendOut 0 0 e).mayPerform 0 0 { e with left := true, sent := (s.core 0).sent } && !e.unmon && x.sq.all (fun q => !q.isOf e || q == e)
    && s.homeCheck (x.actor 0 0) (pieceAt 0x1000) ⟨0x1000, 0, false, 0, false, false⟩ true == .ok
theorem witness_stores : storeReady (entryOf .st [pieceAt 0x1000] (leBytes 8 7)) = true
    ∧ storeReady (entryOf (.atom 0 7 10 1 0 0) [pieceAt 0x1000] []) = true := by decide +kernel

/-! ### Waits, arrivals and endings -/

/-- Barrier object 3 of die 0: valid, package scope, two arrivals expected, `c` made. -/
def objAt : Nat := 0x7FFFF06000018
def barrier (c : Nat) (s : State) : State := s.setCreg objAt (BitVec.ofNat 64 (2 ^ 56 + 3 * 2 ^ 50 + 2 * 2 ^ 32 + c))
def barPiece : Piece := ⟨0x40018, 8, 0, some ⟨objAt, 2, false, 0, false, false⟩⟩
/-- A WAITP for a phase other than q, issued at core cycle 0, suspended after `cyc`. -/
def waitEntry (q : Bool) (cyc : Nat) : Entry := { entryOf (.waitp q 0 false cyc) [barPiece] [] with acq := some 3 }
def waiting (q : Bool) (cyc now : Nat) : State := (barrier 1 (queued [waitEntry q cyc] [] [])).setCore 0 { Core.zero with cyc := BitVec.ofNat 64 now }
theorem witness_waitp : ∀ q ∈ [false, true],
    let s := waiting q 0 0
    s.cx.waitpEntry = some (waitEntry q 0, 0) ∧ s.cx.lq[0]? = some (waitEntry q 0) ∧ s.cx.marks = [] ∧ s.cx.held = false
    ∧ isBarrier objAt = true ∧ barAdmits (s.creg objAt) objAt 0 = true ∧ s.loadOrder 0 0 (waitEntry q 0) = true
    ∧ (s.creg objAt).getLsbD 48 = false ∧ s.listed (homeDie objAt) < 4096 ∧ s.poisoned objAt = false
    ∧ (waitEntry q 0).reported = false ∧ (waitEntry q 0).left = false ∧ (waitEntry q 0).retryAt ≤ (s.core 0).cyc.toNat := by decide +kernel
/-- The waiting list of die 0 is full. -/
def listFull : State :=
  (waiting false 0 0).setCtx 0 1 { Ctx.first with lq := List.replicate 4096 { waitEntry false 0 with kind := .waitp false 0 true 0 } }
theorem witness_waitp_full : 4096 ≤ listFull.listed (homeDie objAt) ∧ listFull.cx.waitpEntry = some (waitEntry false 0, 0)
    ∧ listFull.loadOrder 0 0 (waitEntry false 0) = true ∧ (listFull.creg objAt).getLsbD 48 = false := by decide +kernel
/-- The time is up, with the phase awaited and with one that has flipped; behind an acquire that is not performed yet, too. -/
theorem witness_waitp_timeout : ∀ q ∈ [false, true],
    let s := waiting q 7 7
    s.cx.waitpEntry = some (waitEntry q 7, 0) ∧ s.cx.run = .live ∧ 0 + 7 ≤ (s.core 0).cyc.toNat ∧ barAdmits (s.creg objAt) objAt 0 = true
    ∧ (s.creg objAt).getLsbD 48 = false ∧ s.loadOrder 0 0 (waitEntry q 7) = true := by decide +kernel
def waitBehind : State :=
  let e := { entryOf (.ld 10 8 false) [pieceAt 0x1000] [] with seq := 4, acq := some 3 }
  (waiting true 7 7).setCtx 0 0 { (waiting true 7 7).ctx 0 0 with lq := [e, waitEntry true 7] }
theorem witness_waitp_behind : waitBehind.cx.waitpEntry = some (waitEntry true 7, 1) ∧ waitBehind.cx.run = .live
    ∧ waitBehind.loadOrder 0 0 (waitEntry true 7) = false ∧ barAdmits (waitBehind.creg objAt) objAt 0 = true := by decide +kernel
theorem witness_monwait_timeout :
    let s := (inSlot { Ctx.first with mon := .armed 7, monwait := some ⟨10, 5, 0, 9⟩ }).setCore 0 { Core.zero with cyc := 9 }
    s.cx.monwait = some ⟨10, 5, 0, 9⟩ ∧ 0 + 9 ≤ (s.core 0).cyc.toNat := by decide +kernel
def arrival : Entry := { entryOf .arrive [barPiece] [] with rel := some 3 }
theorem witness_arrival : ∀ c ∈ [0, 1],
    let s := barrier c (queued [] [arrival] [])
    ((s.cx.sq.zipIdx).find? fun p => p.1.kind == .arrive) = some (arrival, 0) ∧ s.cx.sq[0]? = some arrival ∧ s.cx.marks = []
    ∧ isBarrier objAt = true ∧ barAdmits (s.creg objAt) objAt 0 = true ∧ s.mayLeave 0 0 arrival = true ∧ s.poisoned objAt = false
    ∧ (s.sendOut 0 0 arrival).mayPerform 0 0 { arrival with left := true, sent := (s.core 0).sent } = true ∧ arrival.isOf arrival = true
    ∧ ((s.creg objAt).extractLsb' 0 16 + 1 = (s.creg objAt).extractLsb' 32 16 ↔ c = 1) := by decide +kernel
def ending (r : Nat) (trig : Bool) : State := inSlot { Ctx.first with run := .ending r, triggered := trig, recd := [(3, 0x1000), (6, 16)], rpa := 0x40 }
theorem witness_ending : ∀ r < 8, (ending r true).cx.run = .ending r ∧ (ending r true).mayEnd 0 0 r = true ∧ (ending r true).cx.dbg = false
    ∧ (ending r true).cx.ckCount < 256 ∧ (ending r true).cx.killCnt < 2 ^ 16 ∧ (ending r true).hasTriggered 0 0 = true
    ∧ ((ending r true).core 0).evts = [] ∧ ((ending r true).die 0).evt = [] := by decide +kernel
/-! ### Banks, berths and control space -/

/-- Bank `b` of core 0 is being switched to mode 10, and the context owns bank 15. -/
def switching (b : Nat) : State :=
  owner.setCore 0 { owner.core 0 with bankmode := [(b, 0x88)], fifo := [(3, ⟨[], 0, [(4, 2, [1, 2, 3, 4, 5, 6, 7, 8])]⟩)] }
theorem witness_bank_switch : ∀ b ∈ [0, 15],
    (mget 0 ((switching b).core 0).bankmode b).getLsbD 7 = true ∧ (∀ d ∈ allCtx, (switching b).bankDue 0 b d = false)
    ∧ (mget Fifo.zero ((switching b).core 0).fifo b).waiting = [] ∧ bankMode ((switching b).core 0) b ≠ 1 := by decide +kernel
/-- Bank 3 of core 0 leaves cache mode, and no line of the cache is held. -/
def uncaching : State := booted.setCore 0 { Core.zero with bankmode := [(3, 0x81)] }
theorem witness_bank_cache : (mget 0 (uncaching.core 0).bankmode 3).getLsbD 7 = true ∧ bankMode (uncaching.core 0) 3 = 1
    ∧ (mget Fifo.zero (uncaching.core 0).fifo 3).waiting = [] ∧ uncaching.heldLines 0 = [] ∧ ∀ d ∈ allCtx, uncaching.bankDue 0 3 d = false := by
  decide +kernel
theorem witness_bank_write : (owner.core 0).evts = [] ∧ (owner.die 0).evt = [] ∧ (owner.ctx 0 0).resident = true ∧ (owner.core 0).bankOwned 0 15 = true ∧ (owner.core 0).bankOwned 0 14 = false
    ∧ (owner.ctx 0 0).held = false ∧ mwf .zero owner.ctxs = true := by decide +kernel
theorem witness_fifo_push : (mget Fifo.zero ((switching 3).core 0).fifo 3).waiting = (4 * 1 + 0, 2, [1, 2, 3, 4, 5, 6, 7, 8]) :: []
    ∧ (mget Fifo.zero ((switching 3).core 0).fifo 3).q.length < fifoCap ((switching 3).core 0) 3
    ∧ ∀ h ∈ [none, some 3], ∀ k ∈ (({ (switching 3).ctx 1 0 with sqHold := h } : Ctx).sqHold), 2 < k := by decide +kernel
def message : Berth := ⟨0x7FF8, [1, 2, 3, 4, 5, 6, 7, 8], 0x1000, 7, 9, none⟩
def mailed : State := (inSlot { Ctx.first with run := .dormant }).setCore 0 { Core.zero with inbox := [message], berthq := [message] }
theorem witness_berths : (mailed.core 0).inbox = message :: [] ∧ message.src = none ∧ (mailed.core 0).berthq.length < 8
    ∧ (∀ b < 16, bankBusy (mailed.core 0) b = false ∧ bankMode (mailed.core 0) b = 0) ∧ (mailed.core 0).berthq = message :: []
    ∧ (mailed.ctx 0 0).run = .dormant ∧ (∀ d ∈ allCtx, d < 0 → (mailed.ctx 0 d).run ≠ .dormant) ∧ mailed.ecc = []
    ∧ message.off + message.bytes.length ≤ 0x80000 ∧ ∀ b < 8, mailed.poisoned (0x20000000000 + 0x7FF8 + b) = false := by decide +kernel
/-- Lock bits and ownership entries at both of their values. -/
def locked : State := (booted.setCreg 0x7FFFF00700000 0x100).setCreg 0x7FFFF080FFFF8 1
theorem witness_registers : (booted.creg 0x7FFFF00700000).getLsbD 8 = false ∧ (locked.creg 0x7FFFF00700000).getLsbD 8 = true
    ∧ (2 : Word).getLsbD 1 = true ∧ (1 : Word).getLsbD 1 = false ∧ (booted.creg (0x7FFFF08000000 + 16 * 0xFFFF + 8)).extractLsb' 0 2 ≠ 1
    ∧ (locked.creg (0x7FFFF08000000 + 16 * 0xFFFF + 8)).extractLsb' 0 2 = 1 ∧ (2 : Word).extractLsb' 0 2 ≠ 1 ∧ (1 : Word).extractLsb' 0 2 = 1
    ∧ (booted.creg (0x7FFFF00000000 + 0x200000)).getLsbD 0 = false := by decide +kernel
/-- Entry 0 of die 4 covers a page homed there, and the entry of die 0 does not. -/
theorem witness_claim : ∀ d ∈ [0, 4],
    let r0 := 0x7FFFF00000000 + d * 0x10000000 + 0x8000000
    (booted.creg (r0 + 8)).extractLsb' 0 2 ≠ 1 ∧ (booted.creg r0).extractLsb' 0 2 ≠ 3 ∧ regionOf (ownBase (booted.creg r0)) = .hbm
    ∧ (decide (homeDie (ownBase (booted.creg r0)) = d) = decide (d = 4)) ∧ booted.ownOver (ownBase (booted.creg r0)) (ownSize (booted.creg r0)) = []
    ∧ (booted.die d).outbox = [] := by decide +kernel
def barrierValues : List Word := [0x10C0001000000FF, 0x104FFFF00000000]
theorem witness_barrier_values : (barrierValues.all fun v => v.getLsbD 56 && v == v &&& 0x17DFFFF0000FFFF
    && (v.extractLsb' 50 3 == 1 || v.extractLsb' 50 3 == 2 || v.extractLsb' 50 3 == 3) && v.extractLsb' 32 16 != 0) = true := by decide +kernel
def barrierFaults : List Word := [0x300000000000000, 0x110000100000000, 0x10C000000000001]
theorem witness_barrier_bad : (barrierFaults.all fun v => v.getLsbD 56 && (v != v &&& 0x17DFFFF0000FFFF || v.extractLsb' 50 3 == 0
    || 3 < v.extractLsb' 50 3 || v.extractLsb' 32 16 == 0)) = true := by decide +kernel
theorem witness_window : (booted.creg 0x7FFFF80001000).getLsbD 7 = false ∧ (8 : Nat) ≤ 8 ∧ (booted.creg 0x7FFFF80001000).toNat % 16 ≤ 8
    ∧ 8 ≠ (booted.creg 0x7FFFF80001000).toNat % 16 := by decide +kernel
/-- A lease of one page, held by record 0x40, asked to leave at die cycle 0. -/
def leasing : State :=
  ((ending 0 false).setCtx 0 0 { Ctx.first with rpa := 0x40 }).setDie 0 { Die.zero with leases := [⟨1, 0x5000, 0x1000, [0x40]⟩], revokes := [(0x40, 0)] }
theorem witness_leases :
    let t := leasing.setCreg 0x7FFFF00100060 0x1000
    (booted.creg 0x7FFFF00100060).toNat / 4096 % 2 ^ 36 * 4096 = 0 ∧ (t.creg 0x7FFFF00100058).getLsbD 0 = false
    ∧ (t.creg 0x7FFFF00100060).toNat / 4096 % 2 ^ 36 * 4096 = 0x1000 ∧ ((t.die 0).leases.any fun l => l.over (5 * 4096) 0x1000) = true
    ∧ ((t.die 0).leases.any fun l => l.over (6 * 4096) 0x1000) = false ∧ ∀ kv ∈ t.dies, kv.2.unasked = [] := by decide +kernel
theorem witness_leaseto :
    let t := leasing.setCore 0 { Core.zero with cyc := 0x100000 }
    t.cx.run = .live ∧ t.cx.dispute = none ∧ t.cx.forceReq = false ∧ (0x40, 0) ∈ (t.die 0).revokes ∧ t.cx.rpa = 0x40
    ∧ 0 + (t.creg 0x7FFFF00100028).toNat % 2 ^ 32 ≤ t.dieNow 0 ∧ mwf .zero t.ctxs = true := by decide +kernel

/-! ### Engines, residencies and the distributor -/

/-- 64-bit words put in memory. -/
def words (l : List (Nat × Word)) (s : State) : State := l.foldl (fun s p => s.wrBytes p.1 (leBytes 8 p.2.toNat)) s
/-- Engine `e` with a ring of 16 entries at 0x100000, HEAD 0, TAIL 1 and the status `st`. -/
def ringed (e : Nat) (st : Word) (s : State) : State :=
  let b := 0x7FFFF00600000 + e / 16 * 0x10000000 + 0x40 * (e % 16)
  ((s.setCreg b 0x100000).setCreg (b + 16) 1).setCreg (b + 24) st
theorem witness_engine_writes : ∀ e ∈ [(0 : EngineN), 127],
    let b := 0x7FFFF00600000 + e.toNat / 16 * 0x10000000 + 0x40 * (e.toNat % 16)
    2 ^ ((booted.creg b).toNat % 16 + 4) = 16 ∧ (booted.creg (b + 8)).toNat = 0 ∧ (booted.creg (b + 16)).toNat = 0
    ∧ ceMaster e.toNat (.host 1) = true ∧ ceMaster e.toNat (.hart (BitVec.ofNat 3 (e.toNat / 16))) = true ∧ ceMaster e.toNat (.ctx 0 0) = false
    ∧ ((ringed e.toNat 0x40 booted).creg (b + 24)).getLsbD 6 = true ∧ ((ringed e.toNat 0x40 booted).ceDesc e.toNat).at 6 = 0 := by decide +kernel
/-- A write of die 1's harts waits at die 0's mailbox. -/
def backedUp : State := booted.setDie 1 { Die.zero with outbox := [(0, 0x7FFFF00300038, 0)] }
theorem witness_hart_writes : (backedUp.die 1).outbox.any (fun o => o.1 = 0) = true ∧ ∀ g ∈ [0, 7], (booted.die g).outbox = [] := by decide +kernel
def super (op : Nat) (count : Nat) (l : List Word) : State :=
  (words ((0x100000, BitVec.ofNat 64 (op * 2 ^ 60 + 2 ^ 59 + count)) :: l.zipIdx.map fun p => (0x100008 + 8 * p.2, p.1))
    (ringed 3 0 booted)).setEngine 3 { Engine.zero with issuers := [(0, .super true)] }
def lineOk (s : State) (pa : Nat) : Bool :=
  regionOf pa == .hbm && pa % 64 == 0 && !s.poisoned pa && mget 0 s.ecc (pa / 64) == 0 && populated s 0 pa
def engineReady (s : State) (op : Nat) : Bool :=
  s.ceRuns 3 && (s.engine 3).fin.isNone && s.ceIssuer 3 == .super true && (s.ceDesc 3).op == op && !(s.ceDesc 3).bad (s.ceIssuer 3)
    && (s.ceDesc 3).at 6 == 0 && (s.ceDesc 3).phys && s.ceBytes 3 == 0 && lineOk s 0x100000 && mwf .zero s.ctxs
theorem witness_copy : engineReady (super 1 64 [0x2000, 0x3000]) 1 = true ∧ ((super 1 64 [0x2000, 0x3000]).ceDesc 3).count = 64
    ∧ lineOk (super 1 64 [0x2000, 0x3000]) 0x2000 = true ∧ lineOk (super 1 64 [0x2000, 0x3000]) 0x3000 = true := by decide +kernel
def copysc : State := words [(0x4008, 0x8000000000000000)] (super 2 (64 * 2 ^ 32 + 1) [0x2000, 0x3000, 0, 0, 0x4000, 0, 0x5000])
theorem witness_copysc : engineReady copysc 2 = true ∧ ((copysc.ceDesc 3).count, (copysc.ceDesc 3).rows, (copysc.ceDesc 3).rlen) = (1, 1, 64)
    ∧ ([0x2000, 0x3000, 0x4000, 0x5000].all (lineOk copysc)) = true ∧ (copysc.rd64 0x4008).getLsbD 63 = true
    ∧ memFold 64 (copysc.rdBytes 0x2000 64) = copysc.rd64 0x4000 ∧ (copysc.engine 3).images = 0 ∧ (copysc.engine 3).out = none := by decide +kernel
def migrating : State := super 3 4096 [0x2000, 0x8000000000000, 0, 0, 0x8000]
theorem witness_migrate : engineReady migrating 3 = true ∧ (migrating.ceDesc 3).count = 4096
    ∧ ((List.range 64).all fun j => lineOk migrating (0x2000 + 64 * j)) = true ∧ regionOf (migrating.ceDesc 3 |>.at 2).toNat = .host
    ∧ (∀ t < 8, migrating.leased t 0x2000 4096 = false)
    ∧ (migrating.ceDesc 3).at 5 = 0x8000 ∧ 0x2000 + 4096 ≤ 0x8000 ∧ 0x8000 + 256 ≤ 0x100000
    ∧ ((List.range 256).all fun j => regionOf (0x8000 + j) == .hbm && !migrating.poisoned (0x8000 + j) && mget 0 migrating.ecc ((0x8000 + j) / 64) == 0
        && populated migrating 0 (0x8000 + j)) = true
    ∧ ((List.range 64).all fun j => !migrating.poisoned (0x8000000000000 + 64 * j) && populated migrating 0 (0x8000000000000 + 64 * j)) = true := by
  decide +kernel
def mcasting : State := super 4 64 [0x2000, 0x7FFC0, 0, 0, 0x8000000000000001]
theorem witness_mcast : engineReady mcasting 4 = true ∧ (mcasting.ceDesc 3).count = 64 ∧ lineOk mcasting 0x2000 = true ∧ 0x7FFC0 % 64 = 0
    ∧ ∀ j < 64, bankMode (mcasting.core (coreNo j)) (0x7FFC0 / 0x8000) = 0 ∧ bankBusy (mcasting.core (coreNo j)) (0x7FFC0 / 0x8000) = false := by
  decide +kernel
/-- A context in each state that a command may find, its residency being number 5. -/
def lodged (r : Run) : State := inSlot { Ctx.first with run := r, prior := .live, resno := 5 }
theorem witness_commands : ∀ r ∈ [Run.live, .waiting, .stopped, .violation, .dormant],
    let x := (lodged r).ctx 0 0
    x.resident = true ∧ x.resno = 5 ∧ ¬x.resno = 6 ∧ x.dispute = none ∧ x.dbg = false ∧ x.rollReq = false ∧ x.forceReq = false ∧ x.lq = []
    ∧ ((lodged r).core 0).berthq = [] ∧ ((lodged r).core 0).evts = [] ∧ ((lodged r).die 0).evt = [] ∧ (x.held = true ↔ r = .stopped ∨ r = .violation) := by decide +kernel
/-- A stop held over each state: over a wait an access is parked, over the others none is, and no pre-emption waits. -/
def heldOver (r : Run) : Ctx :=
  let e := { entryOf (.ld 10 8 false) [⟨0x10000, 8, 0, none⟩] [] with park := some 0x40 }
  { Ctx.first with run := .stopped, prior := r, resno := 5, lq := if r == .waiting then [e] else [] }
theorem witness_resume : ∀ r ∈ [Run.live, .waiting, .dormant], (heldOver r).prior = r ∧ (heldOver r).held = true ∧ (heldOver r).fpark = none
    ∧ (heldOver r).preq = none ∧ ((heldOver r).lq ++ (heldOver r).pound ++ (heldOver r).sq).any (fun e => e.park.isSome) = (r == .waiting)
    ∧ ∀ e ∈ (heldOver r).lq, e.reported = false := by decide +kernel
theorem witness_leaving : (heldOver (.ending 1)).held = true ∧ (heldOver (.ending 1)).prior = .ending 1 ∧ (heldOver (.ending 1)).resident = true
    ∧ (heldOver (.ending 1)).resno = 5 := by decide +kernel
/-- A record at 0x40 whose table is at 0x2000, and one whose table is malformed. -/
def recorded (bad : Bool) : State :=
  words ([(0x40, 0x4000), (0x48, 7), (0x50, 0x2000), (0x60, 0x900000000), (0x70, 0x1010)] ++ if bad then [(0x2000, 1)] else [])
    (booted.setDie 0 { Die.zero with service := 2 })
theorem witness_dispatch : ∀ b ∈ [false, true],
    let s := recorded b
    (s.ctx 0 0).resident = false ∧ s.room 0 0 { Ctx.zero with recd := s.readRec 0x40 } = true ∧ (s.loadTable 0x2000).isSome = !b
    ∧ (s.rd64 0x40).extractLsb' 60 4 < 3 ∧ s.recBad 0x40 = false ∧ (s.core 0).evts = [] ∧ (s.die 0).evt = [] := by decide +kernel
theorem witness_dispatch_lines : ∀ b ∈ [false, true], (recorded b).ecc = [] ∧ (recorded b).poison = [] := by decide +kernel
/-- The same record restored from a save area at 0x10000, and one that starts dormant. -/
def restored (sr : Nat) : State := words [(0x40, BitVec.ofNat 64 (sr * 2 ^ 60 + 0x4000)), (0x58, 0x10000)] (recorded false)
theorem witness_dispatch_saved : ∀ r ∈ [3, 4],
    let s := restored r
    (s.ctx 0 0).resident = false ∧ s.room 0 0 { Ctx.zero with recd := s.readRec 0x40 } = true ∧ (s.loadTable 0x2000).isSome = true
    ∧ (s.rd64 0x40).extractLsb' 60 4 = BitVec.ofNat 4 r ∧ s.ecc = [] ∧ s.poison = [] ∧ (s.core 0).berthq = [] ∧ (s.core 0).evts = []
    ∧ (s.die 0).evt = [] ∧ (s.readArch 0x10000 16 0x4000).loads = [] := by decide +kernel
theorem witness_noroom : ((lodged .live).ctx 0 0).resident = true := by decide +kernel

/-! ### The distributor -/

/-- A record in a distributor's hands: at 0x40, of queue 0. -/
def held0 : Held := Held.new 0x40 0 0 none
def placed0 : Placed := ⟨held0, 0, 0, 5, 0, 0, 0, 4, 0, false, none⟩
/-- Die 0 in service with its harts running, and `k` its distributor. -/
def distributing (k : Die) : State := ((recorded false).setCreg 0x7FFFF00300000 1).setDie 0 { k with service := 2 }
def mailWord (op : Nat) : Word := BitVec.ofNat 64 (op * 2 ^ 60 + 0 * 2 ^ 57 + 0x40 + 2)
def reads (op : Nat) (k : Die) : State := distributing { k with mread := [mailWord op] }
theorem witness_events : (distributing Die.zero).hartsRun 0 = true ∧ (distributing Die.zero).cores = []
    ∧ (∀ kv ∈ (distributing Die.zero).dies, kv.2.unasked = [] ∧ kv.2.outbox = []) ∧ (0x1000000000000005 : Word).extractLsb' 60 4 = 1 ∧ placed0.held.q / 512 = 0
    ∧ placed0.n = 256 * 0 + ((0x1000000000000005 : Word).extractLsb' 50 2).toNat * 64 + ((0x1000000000000005 : Word).extractLsb' 52 6).toNat
    ∧ (0 : Word).extractLsb' 60 4 = 0 ∧ 7 ≤ (0x7000000000000000 : Word).extractLsb' 60 4 ∧ (mailWord 7).extractLsb' 60 4 ≤ 7
    ∧ ((distributing Die.zero).die 0).evt = [] ∧ ((distributing Die.zero).die 0).mbox = [] := by decide +kernel
theorem witness_event_state :
    let s := distributing { Die.zero with evt := [0x1000000000000005], offers := [placed0], mbox := [mailWord 1] }
    (s.die 0).evt = [0x1000000000000005] ∧ (s.die 0).offers = [placed0] ∧ (s.die 0).mbox = [mailWord 1] ∧ (s.die 0).mread = []
    ∧ ((lodged .live).ctx 0 0).resident = true ∧ ((lodged .live).ctx 0 0).held = false ∧ mwf .zero (lodged .live).ctxs = true := by decide +kernel
theorem witness_mail_place :
    let s := reads 1 { Die.zero with remote := [held0] }
    let r := s.setDie 0 { s.die 0 with mread := [] }
    (s.die 0).mread.head? = some (mailWord 1) ∧ s.hartsFree 0 = true ∧ s.ecc = [] ∧ s.poison = [] ∧ r.heldAt 0 0x40 = some held0 ∧ (s.die 0).answered.contains 0x40 = false
    ∧ (r.mates (r.die 0).remote held0).length < 2 ∧ r.firstCore (r.recCtx 0x40) held0 0 = none
    ∧ (r.pickOn (r.recCtx 0x40) 0 held0.clus).isSome = true := by decide +kernel
/-- A record of a cluster that is on another die, and one that has left core 7 and goes back to it. -/
def elsewhere : Held := { held0 with clus := some 9 }
def returning (k : Die) : State :=
  words [(0x40, 0x3000000000004000)] (distributing { k with lastCore := [(0x40, 8)] })
theorem witness_mail_noroom :
    let s := reads 1 { Die.zero with remote := [elsewhere] }
    let r := s.setDie 0 { s.die 0 with mread := [] }
    r.heldAt 0 0x40 = some elsewhere ∧ (r.mates (r.die 0).remote elsewhere).length < 2 ∧ r.firstCore (r.recCtx 0x40) elsewhere 0 = none
    ∧ r.pickOn (r.recCtx 0x40) 0 elsewhere.clus = none := by decide +kernel
theorem witness_mail_back :
    let s := returning { Die.zero with remote := [held0], mread := [mailWord 1] }
    let r := s.setDie 0 { s.die 0 with mread := [] }
    r.heldAt 0 0x40 = some held0 ∧ r.firstCore (r.recCtx 0x40) held0 0 = some 7 ∧ 7 / 256 = 0
    ∧ (r.freeSlot (coreNo 7) (r.recCtx 0x40)).isSome = true := by decide +kernel
theorem witness_mail_placed :
    let s := reads 2 { Die.zero with remote := [held0], guests := [placed0] }
    s.heldAt 0 0x40 = some held0 ∧ (s.die 0).guests.find? (fun p => p.held.rpa = 0x40) = some placed0 := by decide +kernel
theorem witness_mail_rest : ∀ op ∈ [3, 4, 5, 6, 7],
    let s := reads op { Die.zero with remote := [held0], guests := [placed0], placed := [placed0] }
    (s.die 0).mread.head? = some (mailWord op) ∧ s.hartsFree 0 = true ∧ s.heldAt 0 0x40 = some held0 ∧ placed0.n / 256 = 0
    ∧ ((s.die 0).guests ++ (s.die 0).placed).find? (fun p => decide (p.held.rpa = 0x40) && p.gone.isNone) = some placed0
    ∧ (s.die (placed0.held.q / 512)).resets.contains placed0.held.q = false
    ∧ (s.die 0).guests.find? (fun p => p.held.rpa = 0x40) = some placed0 ∧ (s.die 0).placed.find? (fun p => p.held.rpa = 0x40) = some placed0
    ∧ (2 : BitVec 6).toNat % 16 = 2 := by decide +kernel
/-- Queue 0 with its control block at 0x100 and its ring at 0x1000, whose first entry is the record at 0x40. -/
def queueing : State :=
  words [(0x100, 1), (0x108, 1), (0x148, 0x1000), (0x158, 1), (0x1000, 0x41)] ((distributing Die.zero).setCreg 0x7FFFF00310000 0x101)
theorem witness_queue_wake : queueing.qcb 0 = 0x100 ∧ queueing.hartsGo 0 = true ∧ (queueing.die 0).resets.contains 0 = false ∧ (queueing.qtab 0).getLsbD 0 = true
    ∧ (queueing.rd64 0x108).extractLsb' 0 2 = 1 ∧ (queueing.rd64 0x158).extractLsb' 0 2 = 1 ∧ (queueing.rd64 0x100).toNat = (queueing.rd64 0x140).toNat + 1
    ∧ (queueing.rd64 0x1000).getLsbD 0 = true ∧ (queueing.rd64 0x1000).extractLsb' 1 5 = 0 ∧ (queueing.rd64 0x1000).extractLsb' 52 12 = 0
    ∧ queueing.recBad 0x40 = false ∧ (queueing.rd64 0x40).extractLsb' 56 4 = 0 ∧ queueing.ecc = [] ∧ queueing.poison = [] := by decide +kernel
/-- A record at 0x40 that waits: RCOND 2 for a word other than 1, or RCOND 1 on the barrier object above for the phase `ph`. -/
def waitingOn (ph : Option Nat) (n : Nat) : State :=
  let l : List (Nat × Word) := match ph with
    | none => [(0x40, 0x200000000004000), (0x70, 0x100001010), (0x78, 0x2000)]
    | some p => [(0x40, 0x100000000004000), (0x70, BitVec.ofNat 64 (2 ^ 32 * p + 0x1010)), (0x78, BitVec.ofNat 64 objAt)]
  barrier 1 (words l (distributing { Die.zero with waitl := List.replicate n held0 }))
theorem witness_rcond :
    let s := waitingOn none 1
    s.ecc = [] ∧ s.poison = [] ∧ s.hartsFree 0 = true ∧ (s.die 0).waitl.find? (fun g => g.rpa = 0x40) = some held0 ∧ s.rcondMet 0x40 = true ∧ (s.rd64 0x40).extractLsb' 56 4 ≠ 1
    ∧ (waitingOn (some 1) 1).rcondMet 0x40 = true ∧ ((waitingOn (some 1) 1).rd64 0x40).extractLsb' 56 4 = 1
    ∧ ((waitingOn (some 1) 1).creg (((waitingOn (some 1) 1).rd64 0x78).toNat % 2 ^ 52)).getLsbD 56 = true := by decide +kernel
theorem witness_phase_watch :
    let s := waitingOn (some 0) 1
    (s.die 0).waitl = [held0] ∧ held0.watch = false ∧ (s.rd64 0x40).extractLsb' 56 4 = 1 ∧ (s.rd64 0x78).toNat % 2 ^ 52 = objAt
    ∧ s.hartsFree 0 = true ∧ (s.creg objAt).getLsbD 48 = (s.rd64 0x70).getLsbD 32 ∧ s.listed (homeDie objAt) < 4096 ∧ s.ecc = [] ∧ s.poison = []
    ∧ held0.retryAt ≤ s.dieNow 0 ∧ s.dieNow 0 < ({ held0 with retryAt := 1 } : Held).retryAt := by decide +kernel
theorem witness_phase_watch_full :
    let s := (waitingOn (some 0) 1).setCtx 0 1 { Ctx.first with lq := List.replicate 4096 { waitEntry false 0 with kind := .waitp false 0 true 0 } }
    4096 ≤ s.listed (homeDie objAt) ∧ (s.die 0).waitl = [held0] ∧ (s.creg objAt).getLsbD 56 = true := by decide +kernel
/-- Every monitor is at the record's line, and queue 0 is watched as well, with nothing in its ring. -/
def polledQueue : State :=
  let s := words [(0x40, 0x200000000004000), (0x100, 0), (0x108, 1)] ((distributing Die.zero).setCreg 0x7FFFF00310000 0x101)
  s.setDie 0 { s.die 0 with waitl := [held0], mons := List.replicate 256 (.rec' 0x40) }
theorem witness_poll : (((waitingOn none 257).rearm 0).die 0).polls = [.rec' 0x40] ∧ ((polledQueue.rearm 0).die 0).polls = [.queue 0] := by
  decide +kernel
/-- Die 0 with the record at 0x40 ready, in a queue that is enabled. -/
def offering : State := queueing.setDie 0 { queueing.die 0 with ready := [held0] }
theorem witness_offer :
    let s := offering
    let x := s.recCtx 0x40
    s.ecc = [] ∧ s.poison = [] ∧ s.hartsGo 0 = true ∧ s.canLog 0 = true ∧ (s.die 0).asking 0 = false ∧ s.best 0 = some held0 ∧ s.recBad 0x40 = false
    ∧ (s.rd64 0x40).extractLsb' 60 4 = 0 ∧ held0.wd < 4 ∧ held0.inst = none ∧ held0.clus = none ∧ held0.tried = [] ∧ s.leftCore x 0 = none
    ∧ (s.dieOrder x 0).head? = some 0 ∧ (s.pickOn x 0 none).isSome = true := by decide +kernel
/-- The same of a record that has left core 7. -/
def offeringBack : State :=
  let s := words [(0x40, 0x3000000000004000)] offering
  s.setDie 0 { s.die 0 with lastCore := [(0x40, 8)] }
theorem witness_offer_back :
    let s := offeringBack
    let x := s.recCtx 0x40
    s.ecc = [] ∧ s.poison = [] ∧ s.hartsGo 0 = true ∧ s.canLog 0 = true ∧ (s.die 0).asking 0 = false ∧ s.best 0 = some held0 ∧ s.recBad 0x40 = false
    ∧ (s.die 0).firstDbg = [] ∧ s.leftCore x 0 = some 7 ∧ (s.freeSlot (coreNo 7) x).isSome = true := by decide +kernel
def launching : State := distributing { Die.zero with insts := [⟨0x8000, 0x9000, false, [], 0, 0, true, 0⟩] }
theorem witness_launch : ((launching.die 0).insts.find? fun i => i.pending && !launching.running i.hdr) = some ⟨0x8000, 0x9000, false, [], 0, 0, true, 0⟩
    ∧ launching.canLog 0 = true ∧ launching.hartsGo 0 = true := by decide +kernel
/-- A resident context placed by its die, at a stage of the watchdog, whose queue's W and grace are one unit. -/
def watched (st cyc : Nat) : State :=
  let p := { placed0 with stage := st }
  (queueing.setDie 0 { queueing.die 0 with placed := [p], qcfg := [(0, 0x10001)] }).setCtx 0 0
    { Ctx.first with resno := 5, rpa := 0x40, wdCnt := cyc }
theorem witness_watchdog : ∀ q ∈ [(0, 1024), (1, 2048), (2, 3072)],
    let s := watched q.1 q.2
    let w := mget 0 (s.die 0).qcfg 0
    s.watched 0 0 = some { placed0 with stage := q.1 } ∧ { placed0 with stage := q.1 } ∈ (s.die 0).placed ∧ s.cx.run = .live ∧ s.cx.dispute = none
    ∧ s.cx.resno = 5 ∧ placed0.ckAt = s.cx.ckSeq ∧ placed0.n = 0 ∧ placed0.c = 0 ∧ s.hartsGo 0 = true ∧ s.canLog 0 = true ∧ mwf .zero s.ctxs = true ∧ (w.extractLsb' 16 16).toNat ≠ 0
    ∧ 1024 * (w.extractLsb' 16 16).toNat + q.1 * (1024 * max 1 (w.extractLsb' 0 16).toNat) ≤ s.cx.wdCnt := by decide +kernel
/-- A state whose module has been brought up. -/
def broughtUp (s : State) : State := { s with pkg := { s.pkg with booted := true } }
theorem witness_distctl :
    let q := (distributing Die.zero).setCreg 0x7FFFF00300000 3
    let l := broughtUp ((distributing { Die.zero with accepted := true }).setCreg 0x7FFFF00300000 4)
    (q.creg 0x7FFFF00300000).getLsbD 1 = true ∧ q.hartsRun 0 = true ∧ (l.creg 0x7FFFF00300000).getLsbD 2 = true ∧ (l.die 0).accepted = true
    ∧ (q.die 0).asking 0 = false ∧ (l.die 0).refq = [] ∧ (∀ kv ∈ l.dies, kv.2.unasked = [])
    ∧ (l.creg 0x7FFFF00300000).getLsbD 0 = false ∧ (booted.die 0).accepted = false ∧ (2 : Word).getLsbD 3 = false ∧ (2 : Word).getLsbD 1 = true ∧ (2 : Word).getLsbD 0 = false
    ∧ (l.die 0).logq = [] ∧ (l.die 0).owed = [] ∧ (l.die 0).inreq = [] ∧ l.dieUp 0 = true ∧ State.reset.dieUp 0 = false ∧ l.ecc = [] ∧ l.poison = []
    ∧ ∀ kv ∈ l.dies, kv.2.insts = [] := by decide +kernel
/-- Stopped harts whose hold area has a ready record and one that waits on a word that is what it waits to change. -/
def stoodBy : State :=
  broughtUp <| words [(0x80, 0x200000000004000), (0xB0, 0x1010), (0xB8, 0x2100)]
    ((distributing { Die.zero with accepted := true, holdArea := [(.ready, held0), (.waits, { held0 with rpa := 0x80 })] }).setCreg 0x7FFFF00300000 4)
theorem witness_hold_area : stoodBy.dieUp 0 = true ∧ (stoodBy.creg 0x7FFFF00300000).getLsbD 2 = true ∧ stoodBy.ecc = [] ∧ stoodBy.poison = []
    ∧ (stoodBy.die 0).inreq = [] ∧ (stoodBy.die 0).logq = [] ∧ (stoodBy.die 0).owed = [] ∧ (stoodBy.die 0).refq = []
    ∧ (∀ kv ∈ stoodBy.dies, kv.2.insts = [] ∧ kv.2.unasked = []) ∧ (∀ h ∈ (stoodBy.die 0).holdArea, h.1 = .ready ∨ h.1 = .waits)
    ∧ ∀ h ∈ (stoodBy.die 0).holdArea, h.1 = .waits → (stoodBy.rd64 h.2.rpa).extractLsb' 56 4 ≠ 1 ∧ stoodBy.rcondMet h.2.rpa = false := by decide +kernel

/-! ### Debug, trace, verification and memory errors -/

/-- A context whose record allows debugging, in a state. -/
def debugged (r : Run) : State := inSlot { Ctx.first with run := r, recd := [(6, 0x80000000)] }
theorem witness_debug : ((debugged .live).ctx 0 0).dbg = true ∧ ((lodged .live).ctx 0 0).dbg = false ∧ ((debugged .stopped).ctx 0 0).held = true
    ∧ ((debugged .stopped).creg 0x7FFFF00500008).getLsbD 4 = false
    ∧ ((debugged .stopped).readArch (((debugged .stopped).creg 0x7FFFF00500018).toNat / 64 % 2 ^ 46 * 64) ((debugged .stopped).ctx 0 0).vunits 0).loads = []
    ∧ ((debugged .stopped).ctx 0 0).rollReq = false ∧ ((debugged .stopped).ctx 0 0).forceReq = false ∧ ((debugged .stopped).ctx 0 0).lq = []
    ∧ ((debugged .stopped).core 0).berthq = [] ∧ (debugged .stopped).ecc = [] ∧ (debugged .stopped).poison = []
    ∧ ∀ p ∈ ({ (debugged .stopped).ctx 0 0 with pend := [⟨3, 0, 0, .A, 0, true, 0, [.s 5 1]⟩] } : Ctx).pend,
      p.arrived = true ∧ ((debugged .stopped).ctx 0 0).a.ctxtime.toNat < p.due := by decide +kernel
/-- A session of the debuggable context with samples, and a sampling period of one cycle. -/
def traced : State := ((debugged .live).setCreg 0x7FFFF00500060 0x21).setCreg 0x7FFFF00580040 1
theorem witness_trace : (traced.ctx 0 0).dbg = true ∧ (traced.creg 0x7FFFF00500060).getLsbD 0 = true ∧ (traced.creg 0x7FFFF00500060).getLsbD 5 = true
    ∧ ((debugged .live).creg 0x7FFFF00500060).getLsbD 0 = false
    ∧ ((traced.creg 0x7FFFF00500070).toNat % 2 ^ 20 + 1) % 2 ^ ((traced.creg 0x7FFFF00500068).toNat % 16 + 4)
      ≠ (traced.creg 0x7FFFF00500078).toNat % 2 ^ 20 % 2 ^ ((traced.creg 0x7FFFF00500068).toNat % 16 + 4)
    ∧ (traced.creg 0x7FFFF00580040).toNat % 2 ^ 32 = 1 ∧ (traced.core 0).cyc.toNat % 1 = 0 ∧ (traced.core 0).sampled ≠ some 0 ∧ mwf .zero traced.ctxs = true := by decide +kernel
def disputing (r : Run) : State :=
  (inSlot { Ctx.first with run := r, dispute := some ⟨0, [0], [], [], [], 0, 0, 0⟩ }).setCluster 0 { Cluster.zero with arb := [(0, 0, 0)] }
theorem witness_verification :
    let s := disputing .live
    (s.cluster 0).arb = [(0, 0, 0)] ∧ (s.ctx 0 0).dispute.isSome = true ∧ (s.ctx 0 0).held = false ∧ (s.ctx 0 0).forceReq = false
    ∧ mwf .zero s.ctxs = true ∧ (s.ctx 0 0).dbg = false ∧ ((lodged .stopped).ctx 0 0).held = true ∧ ((lodged .stopped).ctx 0 0).dbg = false
    ∧ ((disputing .stopped).ctx 0 0).held = true ∧ ((disputing .stopped).ctx 0 0).a.trapcause.extractLsb' 0 8 ≠ 0x0B
    ∧ ((disputing .stopped).ctx 0 0).dispute.isSome = true := by
  decide +kernel
/-- A line of HBM that the home holds, and one in core 0's cache. -/
def lineHeld : State := (booted.setL2 0x40 1).setCore 0 { Core.zero with cache := [(0x40, 5)] }
theorem witness_error_sites : booted.inArray 0x20000000000 = true ∧ lineHeld.inArray 0x1000 = true ∧ (lineHeld.core 0).cached 0x1000 ≠ none := by
  decide +kernel
def cleaning (c : Word) : State := (booted.setCreg 0x7FFFF00200018 0x100000).setCreg 0x7FFFF00200000 c
theorem witness_cleancnt : ((cleaning 0).creg 0x7FFFF00200018).toNat = 2 ^ 20 ∧ ((cleaning 0).creg 0x7FFFF00200000).getLsbD 1 = false
    ∧ ((cleaning 2).creg 0x7FFFF00200018).toNat = 2 ^ 20 ∧ ((cleaning 2).creg 0x7FFFF00200000).getLsbD 1 = true := by decide +kernel
theorem witness_mkat :
    let s := booted.setCore 0 { Core.zero with cyc := 9, kats := [⟨0, 9, 1, 1, 1, 0⟩, ⟨0, 9, 1, 1, 2, 0⟩] }
    (s.core 0).kats = [⟨0, 9, 1, 1, 1, 0⟩, ⟨0, 9, 1, 1, 2, 0⟩] ∧ 9 ≤ (s.core 0).cyc.toNat := by decide +kernel
theorem witness_scrub : mget 0 booted.ecc 0 < 8 ∧ booted.l2Has 0 = false ∧ lineHeld.l2Has 0x40 = true ∧ (booted.creg 0x7FFFF80002000).getLsbD 0 = true
    ∧ ((booted.setCreg 0x7FFFF80002000 0).creg 0x7FFFF80002000).getLsbD 0 = false ∧ (booted.creg 0x7FFFF80002008).getLsbD 0 = false
    ∧ min 7 (mget 0 booted.ecc 0 + (2 : BitVec 3).toNat) = 2 ∧ min 7 (mget 0 booted.ecc 0 + (3 : BitVec 3).toNat) = 3 ∧ min 7 (mget 0 booted.ecc 0 + (5 : BitVec 3).toNat) = 5 := by decide +kernel

/-! ### The host, the links and the package -/

def hosted : State := { booted with pkg := { Pkg.zero with pcie := true, hostStopped := [7] } }
theorem witness_host : hosted.pkg.hostq = [] ∧ hosted.pkg.pcie = true ∧ hosted.pkg.stopped 1 = false ∧ hosted.pkg.stopped 7 = true ∧ regionOf 0x1FF8 = .hbm
    ∧ 0x1FF8 % 64 + 8 ≤ 64 ∧ hosted.poisoned 0x1FF8 = false ∧ mget 0 hosted.ecc (0x1FF8 / 64) = 0 ∧ populated hosted 0 0x1FF8 = true
    ∧ mwf .zero hosted.ctxs = true ∧ regionOf 0x10100000000 = .reserved ∧ 0x10100000000 < 2 ^ 42
    ∧ ∀ q ∈ [0, 511], populated hosted 0 (0x7FFFF00000000 + 7 * 0x10000000 + 0x310000 + 8 * q) = true
      ∧ hosted.poisoned (0x7FFFF00000000 + 7 * 0x10000000 + 0x310000 + 8 * q) = false := by decide +kernel
/-- A stream after nothing, with a flit that is not acknowledged, in a rollover, and with another one waiting. -/
def streaming (x : Ide) : State := { hosted with pkg := { hosted.pkg with ide := [(0, x), (4, x)] } }
theorem witness_ide : ∀ i ∈ [0, 4],
    ((streaming { Ide.zero with nextSeq := 1 }).pkg.stream i).old = none ∧ ((streaming { Ide.zero with nextSeq := 1 }).pkg.stream i).unacked = []
    ∧ ((streaming { Ide.zero with unacked := [(0, 0)] }).pkg.stream i).unacked = [(0, 0)]
    ∧ ((streaming { Ide.zero with old := some 0, slot := 1, unacked := [(0, 0)] }).pkg.stream i).old = some 0
    ∧ (∀ f ∈ ((streaming { Ide.zero with old := some 0, slot := 1, unacked := [(0, 0)] }).pkg.stream i).unacked, 0 < f.1 → f.2 ≠ 0)
    ∧ ((streaming { Ide.zero with rxSlot := 1, rxFrom := 3, rxNext := 5 }).pkg.stream i) = { Ide.zero with rxSlot := 1, rxFrom := 3, rxNext := 5 } := by
  decide +kernel
/-- Flits around the first one of the receiver's slot, and around the next one in order. -/
theorem witness_ide_receive :
    let x : Ide := { Ide.zero with rxSlot := 1, rxFrom := 3, rxNext := 5 }
    ((1 : BitVec 1) = x.rxSlot ∧ x.rxFrom ≤ 3 ∧ 2 < x.rxFrom) ∧ ((0 : BitVec 1) ≠ x.rxSlot ∧ 2 < x.rxFrom ∧ x.rxFrom ≤ 3 ∧ 4 < x.rxNext)
    ∧ x.rxFrom < 5 ∧ x.rxFrom ≤ x.rxNext ∧ x.rxNext ≤ 5 ∧ x.badAt = none := by decide +kernel
/-- R429's example: 120 came damaged and 121 is the first flit under slot 1; the replay of 120 is accepted under slot 1, and a flit 118 is not. -/
theorem test_ide_replay :
    let x : Ide := { Ide.zero with rxSlot := 1, rxFrom := 121, rxNext := 120, rxTop := [(0, 120), (1, 122)] }
    (x.receive 1 120).badAt = none ∧ (x.receive 1 120).rxNext = 121 ∧ (x.receive 1 120).rxFrom = 120 ∧ (x.receive 1 118).badAt = some 118 := by
  decide +kernel
/-- A header of KIND 0 with a CRC. -/
def flitHdr (c : BitVec 32) : Word := (0x000FFF00 : BitVec 32) ++ c
theorem flitHdr_toNat (c : BitVec 32) : (flitHdr c).toNat = 0x000FFF00 * 2 ^ 32 + c.toNat := by
  rw [flitHdr, BitVec.toNat_append, ← Nat.shiftLeft_add_eq_or_of_lt c.isLt, Nat.shiftLeft_eq]; rfl
theorem flitHdr_fields (c : BitVec 32) : fld (flitHdr c) 32 32 = 0x000FFF00 ∧ (flitHdr c).setWidth 32 = c ∧ fld (flitHdr c) 36 4 = 0
    ∧ ((flitHdr c).extractLsb' 52 12).toNat = 0 := by
  have hc := c.isLt
  refine ⟨?_, ?_, ?_, ?_⟩ <;> try apply BitVec.eq_of_toNat_eq
  all_goals simp only [fld, BitVec.extractLsb'_toNat, BitVec.toNat_setWidth, flitHdr_toNat, Nat.shiftRight_eq_div_pow]; omega
theorem witness_flits : (∃ hdr : Word, flitBad hdr 0 = false ∧ (hdr.extractLsb' 52 12).toNat = 0) ∧ ∃ hdr : Word, flitBad hdr 0 = true := by
  refine ⟨⟨flitHdr (crc32c (leBytes 4 0x000FFF00 ++ leBytes 64 (0 : BitVec 512).toNat)), ?_⟩, 0xF000000000, ?_⟩
  · obtain ⟨h1, h2, h3, h4⟩ := flitHdr_fields (crc32c (leBytes 4 0x000FFF00 ++ leBytes 64 (0 : BitVec 512).toNat))
    refine ⟨?_, h4⟩
    rw [flitBad, flitCrc, h1, h2, h3, bne_self_eq_false]
    rfl
  · rw [flitBad, show fld (0xF000000000 : Word) 36 4 = 15 from by decide]
    simp
theorem witness_links : (∀ l ∈ [0, 9], (booted.creg 0x7FFFF00700008).getLsbD (16 + l) = true)
    ∧ (∀ t ∈ [0, 7], (booted.creg 0x7FFFF00700008).getLsbD (8 + t) = true)
    ∧ booted.ctxs = [] := by decide +kernel
/-- Distances in the window of a direction: nothing sent, two flits held of which the first is wanted again, a full buffer; and an ACK of 4095
before the first flit, of a flit held, and beyond what is held. -/
def farTo (p q : Nat) : Nat := (q + 4096 - p) % 4096
theorem witness_windows :
    let x : Link := ⟨4095, 63, 4095, 4095, 1⟩
    (Link.zero.want = Link.zero.sent ∧ farTo Link.zero.acked Link.zero.sent < 1024)
    ∧ (farTo x.acked x.want < farTo x.acked x.sent ∧ x.next = x.want ∧ x.want ≠ x.sent ∧ x.replays = 63)
    ∧ (¬farTo x.acked 7 < farTo x.acked x.sent ∧ 7 ≠ x.sent) ∧ ¬farTo 4095 1023 < 1024
    ∧ farTo x.acked 0 ≤ farTo x.acked x.sent ∧ farTo x.acked x.sent < farTo x.acked 7 ∧ farTo x.acked 7 ≤ 1024 := by decide +kernel

/-- The package with its firmware running and nothing trained, and with its die in reduced service. -/
def powered : State := { State.reset with pkg := { Pkg.zero with booted := true } }
def reduced : State := (List.range 8).foldl (fun s d => s.setDie d { Die.zero with service := if d = 0 then 1 else 2 }) booted
theorem witness_package : powered.pkg.booted = true
    ∧ (∀ j ∈ [0, 15], (powered.creg 0x7FFFF00700008).getLsbD (32 + j) = false ∧ (powered.creg 0x7FFFF00700020).getLsbD j = false)
    ∧ (∀ l ∈ [0, 9], (powered.creg 0x7FFFF00700020).getLsbD (32 + l) = false) ∧ (∀ t ∈ [0, 7], (powered.creg 0x7FFFF00700020).getLsbD (16 + t) = false)
    ∧ (booted.creg 0x7FFFF00700008).getLsbD 63 = true ∧ (powered.die 0).service = 0 ∧ mwf .zero powered.cores = true := by decide +kernel
theorem witness_full_service : (reduced.die 0).service = 1 ∧ (∀ i < 16, (reduced.creg 0x7FFFF00700008).getLsbD (32 + i) = true)
    ∧ (∀ i < 10, (reduced.creg 0x7FFFF00700008).getLsbD (16 + i) = true) ∧ ∀ e < 8, e ≠ 0 → (reduced.die e).service = 2 := by decide +kernel
theorem witness_power : (booted.creg 0x7FFFF00700010).toNat % 2 ^ 16 = 4000 ∧ (4000 : Nat) < (4001 : BitVec 16).toNat ∧ 105 ≤ (105 : BitVec 8).toNat
    ∧ 100 * (3800 : BitVec 16).toNat ≤ 95 * 4000 ∧ (104 : BitVec 8).toNat < 105 ∧ 115 ≤ (115 : BitVec 8).toNat := by decide +kernel

/-! ### Translation -/

/-- A load of 8 bytes through a page table whose root is at 0x1000. -/
def walkPiece : Piece := ⟨0x123456789ABC0, 8, 0, none⟩
def walkEntryOf (w : Bool) : Entry := { entryOf (.ld 10 8 false) [walkPiece] [] with woken := w }
def walkVa : Nat := 0x123456789ABC0 % 2 ^ 48
def tableAt (level base : Nat) : Nat := base + 8 * (walkVa / 2 ^ (12 + 9 * level) % 512)
def walking (tlb : List Tlb) (l : List (Nat × Word)) : State :=
  (words l (inSlot { Ctx.first with seq := 9, lq := [walkEntryOf false], ptroot := 0x1000 })).setCluster 0 { Cluster.zero with tlb := tlb }
def walkTables : List (Nat × Word) :=
  [(tableAt 3 0x1000, 0x2003), (tableAt 2 0x2000, 0x3003), (tableAt 1 0x3000, 0x4003), (tableAt 0 0x4000, 0x9005)]
def walkHit : Tlb := ⟨0, walkVa / 4096 * 4096, 4096, 0x9000, 0, false, false, false, true, false⟩
theorem witness_walk_hit :
    let s := walking [walkHit] []
    s.cx.toWalk = some (walkEntryOf false) ∧ mwf .zero s.ctxs = true ∧ tlbFind (s.cluster 0).tlb s.cx.asid walkVa = some walkHit
    ∧ walkHit.rd = true ∧ s.cx.run = .live ∧ (walkEntryOf false).unmon = false := by decide +kernel
theorem witness_walk :
    let s := walking [] walkTables
    let l := s.rd64 (tableAt 0 0x4000)
    s.cx.toWalk = some (walkEntryOf false) ∧ tlbFind (s.cluster 0).tlb s.cx.asid walkVa = none ∧ regionOf s.cx.ptroot = .hbm
    ∧ s.rd64 (tableAt 3 0x1000) = 0x2003 ∧ s.rd64 (tableAt 2 0x2000) = 0x3003 ∧ s.rd64 (tableAt 1 0x3000) = 0x4003
    ∧ l.extractLsb' 0 2 = 1 ∧ l.getLsbD 2 = true ∧ l.extractLsb' 7 2 = 0 ∧ l.extractLsb' 10 2 ≠ 3 ∧ l.extractLsb' 52 8 = 0
    ∧ regionOf 0x9000 = .hbm ∧ walkEntryOf false ∈ s.cx.lq ∧ s.ecc = [] ∧ s.poison = [] := by decide +kernel
theorem witness_walk_fault :
    let s := walking [] []
    (s.rd64 (tableAt 3 0x1000)).getLsbD 0 = false ∧ (walkEntryOf false).park = none ∧ s.cx.forwarded (walkEntryOf false) walkPiece = false
    ∧ s.cx.dbg = false ∧ (s.cluster 0).mons = [] ∧ s.ecc = [] ∧ s.poison = [] := by decide +kernel
theorem witness_park_wake :
    let s := (walking [] []).setCluster 0 { Cluster.zero with mons := [0x40] }
    (s.cluster 0).mons.contains (0x1000 / 64) = true ∧ mwf .zero s.ctxs = true ∧ mwf .zero s.clusters = true := by decide +kernel
def invalidating : State := booted.setDie 0 { Die.zero with invs := [(0, 0, 0)] }
theorem witness_invalidation : (invalidating.die 0).invs ≠ [] ∧ invalidating.ctxs = [] ∧ mwf .zero invalidating.clusters = true := by decide +kernel
/-- A store in the replay queue whose page is at 0x9000 again. -/
def replayPiece : Piece := ⟨0x123456789ABC0, 8, 0, some ⟨0x1000, 0, false, 4096, true, false⟩⟩
def replayEntry (w : Bool) : Entry := { entryOf .st [replayPiece] (leBytes 8 7) with woken := w, unmon := !w }
def replaying (w : Bool) : State :=
  (inSlot { Ctx.first with seq := 9, rq := [replayEntry w] }).setCluster 0 { Cluster.zero with tlb := [{ walkHit with w := true, dirty := true }] }
theorem witness_replay : ∀ w ∈ [false, true],
    let s := replaying w
    let x := s.ctx 0 0
    let q : Piece := { replayPiece with tr := some ⟨0x9BC0, 0, false, 4096, false, false⟩ }
    (replayEntry w).away = false ∧ (replayEntry w).left = false ∧ x.sq = [] ∧ (∀ d : CtxN, d ≠ 0 → (s.ctx 0 d).sq ++ (s.ctx 0 d).rq = []) ∧ x.rq = [replayEntry w] ∧ x.sqHold = none ∧ x.dbg = false ∧ mwf .zero s.ctxs = true ∧ (replayEntry w).woken = w ∧ (replayEntry w).unmon = !w
    ∧ tlbFind (s.cluster 0).tlb x.asid walkVa = some { walkHit with w := true, dirty := true } ∧ 0x9000 + (walkVa - walkVa / 4096 * 4096) = 0x9BC0
    ∧ regionOf 0x9BC0 = .hbm ∧ mget 0 s.ecc (0x9BC0 / 64) = 0 ∧ s.poisoned 0x9BC0 = false ∧ (s.core 0).cached 0x9BC0 = none
    ∧ s.homeCheck (x.actor 0 0) q ⟨0x9BC0, 0, false, 4096, false, false⟩ true = .ok := by decide +kernel
def missing : State := inSlot { reaching with fetchWait := some (0x10000 / 64) }
theorem witness_fill : missing.cx.fetchWait = some 0x400 ∧ missing.cx.run = .live ∧ missing.cx.fpark = none
    ∧ (match trExt missing.cx.ext missing.cx.lw 0 0x10000 64 ⟨false, false, true⟩ with | .hit t _ => t.pa == 0x40000000 | _ => false) = true
    ∧ missing.bankShut 0x40000000 = false ∧ mget 0 missing.ecc (0x40000000 / 64) = 0 ∧ missing.fetchable 0 0x40000000 = true ∧ mget false missing.poison (0x40000000 / 64) = false := by decide +kernel

/-! ### Issue and the step -/

/-- A word at its first issue: an addition, and a compare of a relation that does not exist. -/
def issuing (w : Nat) : State := State.reset.withFetchWord 32 w
def addWord : Nat := 0b0000000_000101_111110_100001_0000000
def badWord : Nat := 0b0110000_1001_1111_111110_000001_00000
theorem witness_issue :
    let s := issuing addWord
    s.foc.core = 0 ∧ mwf .zero s.ctxs = true ∧ (∀ d : CtxN, d ≠ 0 → s.ctx 0 d = .zero) ∧ (s.ctx 0 0).post = none ∧ (s.ctx 0 0).monwait = none
    ∧ (s.creg (0x7FFFF00580040)).toNat % 2 ^ 32 = 0 ∧ (s.ctx 0 0).yieldAt = none ∧ (s.ctx 0 0).yieldSet = [] ∧ (s.ctx 0 0).pend ++ (s.ctx 0 0).ckPend = [] ∧ s.ready 0 0 = true ∧ (s.creg 0x7FFFF00700018).getLsbD 16 = false := by decide +kernel
def planOf (s : State) : Option Plan := match s.plan 0 0 with | .ok p => some p | _ => none
theorem witness_plan : (planOf (issuing addWord)).any (fun p => p.pos.isNone && p.bad.isNone && hRep p.b.hdr == 0) = true
    ∧ (planOf (issuing badWord)).any (fun p => p.bad == some 0) = true ∧ ((issuing badWord).ctx 0 0).dbg = false
    ∧ ((issuing badWord).ctx 0 0).taken = 0 ∧ ((issuing badWord).ctx 0 0).opened = false ∧ ((issuing badWord).ctx 0 0).pend = []
    ∧ ((issuing badWord).ctx 0 0).stepDue = false ∧ (issuing badWord).ctx 0 0 ≠ .zero ∧ ((issuing addWord).ctx 0 0).owed = 0 ∧ hRep (2 ^ 14 : Word) = 1 := by decide +kernel
/-- The last bundle of a body in a nest of two: the inner index below its bound, at it, and both at theirs. -/
def nested (a b : BitVec 32) : State :=
  let x := (issuing addWord).ctx 0 0
  (issuing addWord).setCtx 0 0 { x with a := { x.a with dims := 2, lbnd := [(0, 3), (1, 2)], lc := [(0, a), (1, b)], body := 0x40 }, npc := 0x80 }
def lastPlan : Plan := ⟨decodeBundle (leBytes 8 0x1001555), some 0, [], 0x80, none⟩
theorem witness_nest : (planOf (issuing addWord)).any (fun p => hE p.b.hdr) = false ∧ hE lastPlan.b.hdr = true ∧ lastPlan.pos = some 0
    ∧ ∀ q ∈ [((1 : BitVec 32), (1 : BitVec 32), 0), (2, 0, 1), (2, 1, 2)],
      let x := (nested q.1 q.2.1).ctx 0 0
      x.post = none ∧ x.dbg = false ∧ x.owed = 0 ∧ hRep lastPlan.b.hdr ≤ x.a.rep.toNat
      ∧ (∀ i < q.2.2, mget 0 x.a.lbnd i ≤ mget 0 x.a.lc i + 1)
      ∧ (q.2.2 < x.a.dims.toNat → mget 0 x.a.lc q.2.2 + 1 < mget 0 x.a.lbnd q.2.2) := by decide +kernel
/-- R265: the inner index starts again and the outer one counts up. -/
theorem test_nest : (((nested 2 0).endIssue 0 0 lastPlan).ctx 0 0).a.pc = 0x40
    ∧ mget 0 (((nested 2 0).endIssue 0 0 lastPlan).ctx 0 0).a.lc 0 = 0 ∧ mget 0 (((nested 2 0).endIssue 0 0 lastPlan).ctx 0 0).a.lc 1 = 1
    ∧ (((nested 2 1).endIssue 0 0 lastPlan).ctx 0 0).a.dims = 0 := by decide +kernel
/-- The addition, once 256 core cycles have passed since the mark of its context. -/
def overflowing : State :=
  let s := (issuing addWord).setCtx 0 0 { (issuing addWord).ctx 0 0 with implAt := some 0 }
  s.setCore 0 { s.core 0 with cyc := 256 }
theorem witness_overflow :
    let s := overflowing
    let y := s.cx.landDue
    s.cx.canIssue = true ∧ s.cx.opened = false ∧ s.cx.taken = 0 ∧ s.cx.overflowed = false ∧ y.implAt = some 0 ∧ 0 + 256 ≤ (s.core 0).cyc.toNat
    ∧ s.cx.dbg = false ∧ y.haltReq = false ∧ y.stepDue = false
    ∧ ((planOf (s.setCx y)).any fun p => p.bad.isNone && p.ops.all (fun q => (tileFault y.a q.2).isNone)
        && (({ y with npc := p.next, inBody := p.pos.isSome } : Ctx).overflow 0 (p.ckpt { y with npc := p.next, inBody := p.pos.isSome })
          (p.ops.map (·.2))).isNone) = true := by decide +kernel
theorem witness_step : (issuing addWord).agenda = [(⟨0, 0, .A, false⟩, .bundleIssue)] ∧ State.reset.agenda = [] ∧ (∀ a ∈ State.reset.work, State.reset.changes a = false)
    ∧ ((ending 4 false).work.find? (ending 4 false).changes).isSome = true ∧ (ending 4 false).agenda = [] := by decide +kernel
def addSlot : PSlot := planSlot ((issuing addWord).ctx 0 0) (decodeBundle (bundleOf 32 addWord)) 0 false false .A
theorem witness_slot : addSlot.op = some (.add 5 62 33) ∧ Instr.slotClass (.add 5 62 33) = some .scalar ∧ irrevocable (.add 5 62 33) = false
    ∧ hMode (decodeBundle (bundleOf 32 addWord)).hdr .A = 2 ∧ (decodeBundle (bundleOf 32 addWord)).pfx = []
    ∧ (decodeBundle (bundleOf 32 addWord)).words.find? (fun q => q.1 == .A) = some (.A, BitVec.ofNat 64 addWord)
    ∧ Ready (.add 5 62 33) (issuing addWord) ∧ (issuing addWord).foc.trapped = false := by decide +kernel
/-- Slot V live with an addition that steps VD, in bundles that issue it again, nudge it by -1, and rest it; and the same word given in a body. -/
def stepWord : BitVec 64 := (encode (.vadd ⟨8, 0, false, false, 1023, 1, 2, 0, 0, 0, none⟩)).1 ||| 0x80
def stepping : Ctx :=
  { Ctx.first with a := { Arch.zero with sticky := [(2, ⟨true, stepWord, 0, 0, 0, 2⟩)], dims := 2, lc := [(0, 1), (1, 2)], lstr := [(0, 3)] } }
def modeOf (m n : Nat) : Bundle := { decodeBundle (leBytes 8 (m * 2 ^ 4 + n * 2 ^ 40)) with words := [(.V, stepWord)] }
theorem witness_stepping : [0, 1, 2, 3].map (fun m => hMode (modeOf m 15).hdr .V) = [0, 1, 2, 3] ∧ hNudge (modeOf 3 15).hdr .V = 15
    ∧ (mget Sticky.rest stepping.a.sticky Slot.V.idx).live = true ∧ (mget Sticky.rest stepping.a.sticky Slot.W.idx).live = false
    ∧ ((Sticky.ofWord .V stepWord (modeOf 2 15).pfx 15).decode .V).isSome = true ∧ stepping.a.dims.toNat ≤ 6
    ∧ (modeOf 2 15).words.find? (fun q => q.1 == .V) = some (.V, stepWord) := by decide +kernel
/-- R240, R241, R264: VD goes from v1023 by 2, by -1, and by -1·1 + 3·2. -/
theorem test_stepping : [planSlot stepping (modeOf 0 15) 0 false false .V, planSlot stepping (modeOf 3 15) 0 false false .V,
      planSlot stepping (modeOf 2 15) 0 true false .V].map (fun p => match p.op with | some (.vadd o) => o.vd.toNat | _ => 9999) = [1, 1022, 4] := by
  decide +kernel
/-- The first issue of the addition leaves its sum on its way to s5. -/
theorem test_first_issue : (match step (issuing addWord) with
    | .next t => (t.ctx 0 0).pend.map (fun p => (p.due, p.ws)) == [(1, [.s 5 0])] && (t.ctx 0 0).a.pc == 12
    | _ => false) = true := by decide +kernel
theorem witness_encode : (auxWords1 ++ memoryWords1 ++ matrixWords1 ++ vectorWords1 ++ scalarWords1).all
    (fun p => p.2.slotClass.isSome && p.2.wf && p.2.dispFits) = true := by decide +kernel
theorem witness_results : ∃ x : Ctx, x.a.ctxtime.toNat = 5 ∧ x.pend = [⟨3, 0, 0, .A, 0, true, 0, [.s 5 1]⟩, ⟨5, 0, 0, .A, 0, true, 0, [.s 5 2]⟩]
    ∧ x.landDue.a.rdS 5 = 2 ∧ x.landDue.pend = [] :=
  ⟨{ Ctx.first with a := { Arch.zero with ctxtime := 5 }, pend := [⟨3, 0, 0, .A, 0, true, 0, [.s 5 1]⟩, ⟨5, 0, 0, .A, 0, true, 0, [.s 5 2]⟩] },
    by decide +kernel⟩
theorem witness_invariant : (issuing addWord).Inv := by constructor <;> decide +kernel
theorem witness_invariant_step : (match step (issuing addWord) with | .next _ => true | _ => false) = true := by decide +kernel

/-! ### Ill-formed terms -/

def vOp : VOp := ⟨8, 0, false, false, 1, 2, 3, 0, 0, 0, none⟩
def mOp : MOp := ⟨11, 11, false, 0, 0, 1, 0, 0, 0, 0, 0, none⟩
def lOp : LOp := ⟨6, 0, 0, 5, 1, 0, 0, false, 0, 0, 0, none⟩
/-! Each term breaks one check of the field rules. -/

def illFormed1 : List Instr :=
  [.cmp 1 11 2 3, .cmpi 1 15 2 3, .csrr 1 0x18, .csrw 0x25 1, .csrs 0x37 1, .csrc 0x50 1, .lcw 6 1, .lcr 1 7, .loopn 0 0, .loopn 0 7,
    .suspend 4 1 2, .suspend 0 1 0, .suspend 0 0 1]
def illFormed2 : List Instr :=
  [.vadd { vOp with ty := 11 }, .vsub { vOp with mreg := 1 }, .vmul { vOp with mz := true }, .vmin { vOp with vc := 1 }, .vmax { vOp with fn := 2 },
    .vadd { vOp with fn := 1, vb := 64 }, .vfma { vOp with fn := 2 }, .vfms { vOp with ty := 13 }, .vabs { vOp with vb := 0, vc := 1 }, .vneg { vOp with vb := 1 },
    .vmov { vOp with vb := 0, fn := 1 }, .vadds vOp, .vsubs { vOp with ty := 9 }, .vmulh vOp, .vand { vOp with ty := 12 }, .vor { vOp with vc := 2 },
    .vxor { vOp with fn := 3 }, .vandn { vOp with mz := true }, .vshl vOp, .vshr vOp, .vsar { vOp with ty := 10 }, .vcmp { vOp with vd := 8 },
    .vcmp { vOp with fn := 7 }, .vcmp { vOp with ty := 0, fn := 6 }, .vcmp { vOp with fn := 16, vb := 64 }, .vsel { vOp with mu := true },
    .vsel { vOp with fn := 1 }, .mand { vOp with ty := 1 }, .mor { vOp with ty := 0, vd := 8 }, .mxor { vOp with ty := 0, se := 1 },
    .mandn { vOp with ty := 0, vcnt := some 1 }, .mpop { vOp with vd := 64, vb := 0 }, .mpop { vOp with va := 8, vb := 0 }]
def illFormed3 : List Instr :=
  [.vcvt { vOp with ty := 11 }, .vcvt { vOp with vb := 0x80 }, .vcvt { vOp with vb := 0x18 }, .vcvt { vOp with vb := 8, fn := 4 },
    .vcvt { vOp with vb := 8, fn := 16 }, .vcvt { vOp with vb := 8, vc := 1 }, .vcvt { vOp with vb := 8, se := 1 }, .vqnt { vOp with vb := 8 },
    .vqnt { vOp with ty := 11, vb := 9 }, .vqnt { vOp with ty := 11, vb := 24 }, .vdqnt { vOp with vb := 8 }, .vdqnt { vOp with ty := 9, vb := 11 },
    .vredsum { vOp with vb := 0, mu := true, mz := true }, .vredmax { vOp with vb := 1 }, .vredmin { vOp with vb := 0, se := 1 },
    .vperm { vOp with vc := 1 }, .vbcast { vOp with vb := 16 }, .vbcastScalar { vOp with va := 0, fn := 0 },
    .vbcastScalar { vOp with va := 0, fn := 1, vb := 64 }, .vlane { vOp with va := 0 }, .vmovs { vOp with vd := 64 }, .vmovs { vOp with vb := 16 },
    .vmovl { vOp with va := 64 }, .vmovl { vOp with se := 2 }, .vslide { vOp with fn := 16 }, .vzip { vOp with fn := 2 }, .vunzip { vOp with fn := 2 },
    .vrcp { vOp with ty := 9, vb := 0 }, .vrsqrt vOp, .vexp2 { vOp with vb := 0, fn := 1 }, .vlog2 { vOp with vb := 0, vc := 1 },
    .vtanh { vOp with vb := 0, se := 1 }, .vrng { vOp with fn := 0 }, .vrng { vOp with va := 64, fn := 1 }, .vrng { vOp with ty := 0, fn := 1 }]
def illFormed4 : List Instr :=
  [.mma { mOp with fa := 10 }, .mma { mOp with fn := 3 }, .mma { mOp with fn := 2, ka := 1 }, .mma { mOp with aux := 1 }, .mmas { mOp with fb := 8, aux := 2 },
    .mmas { mOp with aux := 1 }, .tadd mOp, .tadd { mOp with fa := 0, fb := 0, ta := 4 }, .tscl { mOp with fa := 0, fb := 0 }, .tcvt mOp,
    .tcvt { mOp with fa := 8, fb := 0, tb := 0, kb := 1 }, .tqnt mOp, .tqnt { mOp with fb := 8, d := 1 }, .tcmpr { mOp with fb := 0, fn := 4, aux := 2 },
    .tcmpr { mOp with fb := 0 }, .tdcmp { mOp with fb := 0, ka := 1, aux := 2 }, .tdcmp { mOp with fb := 0 }, .tmov mOp,
    .tmov { mOp with fa := 0, fb := 0, pr := true }, .mkat 10 1 0]
def illFormed5 : List Instr :=
  [.ld { lOp with ty := 8 }, .ld { lOp with ord := 2 }, .ld { lOp with d := 64 }, .st { lOp with ord := 1 }, .st { lOp with fn := 1 }, .vld { lOp with ty := 11 },
    .vst { lOp with ord := 1 }, .vlds { lOp with fn := 1 }, .vsts { lOp with mreg := 1 }, .vgath { lOp with x := 1 }, .vscat { lOp with ty := 8 },
    .ldfar { lOp with fn := 8 }, .vldfar { lOp with ty := 12 }, .qmark { lOp with ty := 0, d := 0 }, .fence { lOp with ty := 0, d := 0, b := 0 },
    .fence { lOp with ty := 0, d := 0, b := 0, ord := 3, scope := 5 }, .atom { lOp with fn := 9 }, .atom { lOp with se := 1 }, .arrive { lOp with ty := 0 },
    .waitp { lOp with ty := 0, x := 1 }, .berth { lOp with ty := 0, x := 62 }, .ownx { lOp with ty := 0, fn := 1 }, .monarm { lOp with ord := 2 },
    .monwait { lOp with ty := 0 }, .pref { lOp with ty := 0, d := 0, fn := 3 }, .cwb { lOp with ty := 0 }, .cinv { lOp with ty := 0, d := 0, fn := 1 },
    .cinvAll { lOp with ty := 0, d := 0, fn := 1 }, .tagset { lOp with ty := 0, x := 1 }, .tagrd { lOp with ty := 0, fn := 1 }]
def illFormed6 : List Instr :=
  [.tld { lOp with ty := 11, d := 8 }, .tld { lOp with ty := 1 }, .tld { lOp with ty := 11, fn := 4 }, .tld { lOp with ty := 11, fn := 2 },
    .tld { lOp with ty := 11, fn := 1, vcnt := some 1 }, .tst { lOp with ty := 11, d := 12 }, .tst { lOp with ty := 11, d := 8 }, .tst { lOp with ty := 11, fn := 2 },
    .tcfg { lOp with ty := 0 }, .tsave { lOp with ty := 0, d := 0, x := 1 }, .trest { lOp with ty := 0, d := 0, se := 1 }, .tsend { lOp with ty := 11, fn := 8 },
    .tsend { lOp with ty := 11, fn := 2 }, .trigger { lOp with ty := 0, d := 0 }, .spawn { lOp with ty := 0, se := 2 }, .launch { lOp with ty := 0, x := 1 },
    .gssnext { lOp with ty := 0, x := 5 }, .sld ⟨0, 0, 5, 0⟩, .trw ⟨0, 12, 0, 0⟩, .trr ⟨0, 13, 0, 0⟩, .tcw ⟨0, 14, 0, 0⟩, .tcr ⟨0, 15, 0, 0⟩,
    .tzero ⟨1, 0, 0, 0⟩, .brd ⟨0, 0, 1, 1⟩, .bwr ⟨1, 0, 0, 1⟩, .bchk ⟨0, 7, 0, 0⟩, .bchk ⟨0, 8, 16, 0⟩, .bclr ⟨0, 0, 0, 1⟩, .sgrd ⟨0, 8, 2, 1⟩,
    .sgclr ⟨0, 7, 0, 0⟩, .kwr ⟨0, 0, 1, 0⟩, .krd ⟨0, 0, 0, 1⟩]
theorem test_ill_formed_1 : illFormed1.all (fun i => !i.wf) = true := by decide +kernel
theorem test_ill_formed_2 : illFormed2.all (fun i => !i.wf) = true := by decide +kernel
theorem test_ill_formed_3 : illFormed3.all (fun i => !i.wf) = true := by decide +kernel
theorem test_ill_formed_4 : illFormed4.all (fun i => !i.wf) = true := by decide +kernel
theorem test_ill_formed_5 : illFormed5.all (fun i => !i.wf) = true := by decide +kernel
theorem test_ill_formed_6 : illFormed6.all (fun i => !i.wf) = true := by decide +kernel
/-- The same shapes with nothing broken. -/
theorem test_well_formed : ([.cmp 1 10 2 3, .csrr 1 0x17, .lcw 5 1, .loopn 0 6, .suspend 3 1 2, .vadd vOp, .vadd { vOp with fn := 1, vb := 63 }, .vcmp { vOp with vd := 7, fn := 6 },
    .vcvt { vOp with vb := 8 }, .mma mOp, .mmas { mOp with aux := 2 }, .ld lOp, .st lOp, .vld { lOp with ty := 8 }, .tld { lOp with ty := 11 },
    .sld ⟨0, 0, 4, 0⟩, .bchk ⟨0, 11, 15, 0⟩] : List Instr).all Instr.wf = true := by decide +kernel

/-! ### Results on fixed values, from the rules named -/

/-- The scalar result that an operation sends. -/
def sent (i : Instr) (x y : Word) : Option (Nat × Write) :=
  match exec i (inSlot { Ctx.first with a := { Arch.zero with sr := [(1, x), (2, y)] } }) with
  | .next t => t.cx.pend.head?.bind fun p => p.ws.head?.map fun w => (p.due, w)
  | _ => none
/-- R275, R276. -/
theorem test_scalar_wraps : sent (.add 3 1 2) 0xFFFFFFFFFFFFFFFF 2 = some (1, .s 3 1) ∧ sent (.mulh 3 1 2) (-1) (-1) = some (3, .s 3 0)
    ∧ sent (.mulhu 3 1 2) (-1) (-1) = some (3, .s 3 0xFFFFFFFFFFFFFFFE) := by decide +kernel
theorem test_scalar_division : sent (.div 3 1 2) 7 0 = some (18, .s 3 0xFFFFFFFFFFFFFFFF) ∧ sent (.rem 3 1 2) (-7) 2 = some (18, .s 3 (-1))
    ∧ sent (.div 3 1 2) 0x8000000000000000 (-1) = some (18, .s 3 0x8000000000000000) := by decide +kernel
/-- R277. -/
theorem test_scalar_fields : sent (.ext 3 1 2 3 true) 0xF00 8 = some (1, .s 3 0xFFFFFFFFFFFFFFFF) ∧ sent (.setkey 3 1 2) 0x1234 7 = some (1, .s 3 0x7000000001234) := by
  decide +kernel
/-- R391: the write that is due later stays. -/
def twoDue : List Pend := [⟨4, 1, 0, .A, 0, true, 0, [.s 5 1]⟩, ⟨5, 0, 0, .A, 0, true, 0, [.s 5 2]⟩]
theorem test_later_result : ({ Ctx.first with a := { Arch.zero with ctxtime := 5 }, pend := twoDue } : Ctx).landDue.a.rdS 5 = 2 := by decide +kernel

/-! ### The forms that the vector and matrix statements tell apart -/

def vectorState : State := inSlot (tiled [])
def vecForms : List Instr :=
  [0, 4, 3, 7, 8, 9, 10].flatMap (fun t => ([.vadd { vOp with ty := t }, .vfma { vOp with ty := t }, .vabs { vOp with ty := t, vb := 0 },
      .vredsum { vOp with ty := t, vb := 0 }, .vredmax { vOp with ty := t, vb := 0 }, .vcmp { vOp with ty := t, fn := 5 },
      .vcmp { vOp with ty := t, fn := 16, mu := true, mz := true }] : List Instr))
    ++ ([.vcvt { vOp with ty := 8, vb := 2 }, .vcvt { vOp with ty := 9, vb := 0x18 }, .vcvt { vOp with ty := 10, vb := 0x19 },
      .vcvt { vOp with ty := 0, vb := 0x72 - 0x40 }, .vcvt { vOp with ty := 0, vb := 7, fn := 8 }, .vqnt { vOp with ty := 11, vb := 8 },
      .vqnt { vOp with ty := 13, vb := 10 }, .vdqnt { vOp with ty := 8, vb := 12 }, .vdqnt { vOp with ty := 10, vb := 11 },
      .vrng { vOp with ty := 7, fn := 0 }, .vrng { vOp with ty := 8, fn := 1 }, .vrng { vOp with ty := 9, fn := 1 }, .vrng { vOp with ty := 10, fn := 1 },
      .vrcp { vOp with vb := 0 }, .vrsqrt { vOp with ty := 10, vb := 0 }, .vexp2 { vOp with vb := 0 }, .vlog2 { vOp with vb := 0 }, .vtanh { vOp with vb := 0 }] : List Instr)
theorem witness_vector_forms : vecForms.all (fun i => opLegal vectorState.cx false i && (tileFault vectorState.cx.a i).isNone) = true := by
  decide +kernel
/-- A count of 0 in s20, which leaves a reduction no active lane and a matrix operation no row. -/
def noCount : State := inSlot { tiled [108, 108] with a := { (tiled [108, 108]).a with sr := [(20, 0)] } }
theorem witness_no_count : noCount.cnt (some 20) = 0 ∧ Ready (.vredmin { vOp with vb := 0, vcnt := some 20 }) noCount
    ∧ Ready (.mma { mOp with fa := 12, fb := 12, ta := 0, tb := 1, vcnt := some 20 }) noCount := by decide +kernel
/-- Operands of the approximations: NaN, infinities, zeros, and negative ones. -/
theorem witness_approx_operands : (valOf fmt32 0x7FC00000).isNan = true ∧ valOf fmt32 0x7F800000 = .inf false ∧ valOf fmt32 0xFF800000 = .inf true
    ∧ (match valOf fmt32 0 with | .num false 0 _ => true | _ => false) = true ∧ (match valOf fmt32 0x80000000 with | .num true 0 _ => true | _ => false) = true
    ∧ (match valOf fmt32 0xBF800000 with | .num true (_ + 1) _ => true | _ => false) = true := by decide +kernel
/-- Tile moves with a source apart from their destination, and with the same one. -/
theorem witness_tile_moves : Ready (.tmov { mOp with fa := 0, fb := 0 }) noCount ∧ Ready (.tmov { mOp with fa := 0, fb := 0, tb := 0 }) noCount := by
  decide +kernel

end Sys2Proof.Tests
end

/-! PROOFS. Scalar division, compares and predicate logic (R276, R279, R280). -/

namespace Sys2Proof.Machine

/-! ### What each operation gives where it may execute -/

section
variable (s : State) (d a b : Reg) (p pa pb : PReg) (na nb : Bool) (cc : BitVec 4)

theorem gives_div : Gives (.div d a b) s (s.landS 18 d (divS (s.S a) (s.S b))) :=
  gives_of_guarded (fun s => s.landS 18 d (divS (s.S a) (s.S b))) rfl rfl
theorem gives_divu : Gives (.divu d a b) s (s.landS 18 d (divU (s.S a) (s.S b))) :=
  gives_of_guarded (fun s => s.landS 18 d (divU (s.S a) (s.S b))) rfl rfl
theorem gives_rem : Gives (.rem d a b) s (s.landS 18 d (remS (s.S a) (s.S b))) :=
  gives_of_guarded (fun s => s.landS 18 d (remS (s.S a) (s.S b))) rfl rfl
theorem gives_remu : Gives (.remu d a b) s (s.landS 18 d (remU (s.S a) (s.S b))) :=
  gives_of_guarded (fun s => s.landS 18 d (remU (s.S a) (s.S b))) rfl rfl

theorem gives_cmp : Gives (.cmp p cc a b) s (s.landP p (cmpCc cc (s.S a) (s.S b))) :=
  gives_of_guarded (fun s => s.landP p (cmpCc cc (s.S a) (s.S b))) rfl rfl
/-- The immediate is compared as its sign extension (R279). -/
theorem gives_cmpi (imm : BitVec 36) :
    Gives (.cmpi p cc a imm) s (s.landP p (cmpCc cc (s.S a) (BitVec.ofInt 64 imm.toInt))) :=
  gives_of_guarded (fun s => s.landP p (cmpCc cc (s.S a) (imm.signExtend 64))) rfl rfl

theorem gives_pand : Gives (.pand p pa na pb nb) s (s.landP p ((s.P pa ^^ na) && (s.P pb ^^ nb))) :=
  gives_of_guarded (fun s => s.landP p ((s.P pa ^^ na) && (s.P pb ^^ nb))) rfl rfl
theorem gives_por : Gives (.por p pa na pb nb) s (s.landP p ((s.P pa ^^ na) || (s.P pb ^^ nb))) :=
  gives_of_guarded (fun s => s.landP p ((s.P pa ^^ na) || (s.P pb ^^ nb))) rfl rfl
theorem gives_pxor : Gives (.pxor p pa na pb nb) s (s.landP p ((s.P pa ^^ na) ^^ (s.P pb ^^ nb))) :=
  gives_of_guarded (fun s => s.landP p ((s.P pa ^^ na) ^^ (s.P pb ^^ nb))) rfl rfl
theorem gives_pandn : Gives (.pandn p pa na pb nb) s (s.landP p ((s.P pa ^^ na) && !(s.P pb ^^ nb))) :=
  gives_of_guarded (fun s => s.landP p ((s.P pa ^^ na) && !(s.P pb ^^ nb))) rfl rfl

end

/-! ### Quotients and remainders (R276) -/

theorem divU_eq (x y : Word) : divU x y = if y = 0 then 0xFFFFFFFFFFFFFFFF else BitVec.ofNat 64 (x.toNat / y.toNat) := by
  rw [divU, BitVec.udiv_def]
  rfl

theorem remU_eq (x y : Word) : remU x y = if y = 0 then x else BitVec.ofNat 64 (x.toNat % y.toNat) := by
  rw [remU, BitVec.umod_def]

/-- The quotient 2^63 wraps around to the dividend. -/
theorem divS_intMin_neg_one : divS (BitVec.ofInt 64 (-2 ^ 63)) (BitVec.ofInt 64 (-1)) = BitVec.ofInt 64 (-2 ^ 63) := by decide

theorem remS_intMin_neg_one : remS (BitVec.ofInt 64 (-2 ^ 63)) (BitVec.ofInt 64 (-1)) = 0 := by decide

/-! ### The relations that CC names (R279) -/

theorem beq_eq_decide_toNat (x y : Word) : (x == y) = decide (x.toNat = y.toNat) := by
  rw [Bool.eq_iff_iff, beq_iff_eq, decide_eq_true_iff, BitVec.toNat_inj]

theorem bne_eq_decide_toNat (x y : Word) : (x != y) = decide (x.toNat ≠ y.toNat) := by
  rw [bne, beq_eq_decide_toNat, decide_not]

/-- Two words have a common one bit exactly when their conjunction is not zero. -/
theorem and_bne_zero_eq_any (x y : Word) :
    (x &&& y != 0) = (List.range 64).any fun i => x.getLsbD i && y.getLsbD i := by
  simp only [← BitVec.getLsbD_and]
  generalize x &&& y = z
  rw [Bool.eq_iff_iff, bne_iff_ne, List.any_eq_true]
  constructor
  · intro hz
    refine Classical.byContradiction fun hn => hz (BitVec.eq_of_getLsbD_eq fun i hi => ?_)
    have hbit : z.getLsbD i = false := Bool.eq_false_iff.mpr fun hb => hn ⟨i, List.mem_range.mpr hi, hb⟩
    exact hbit.trans BitVec.getLsbD_zero.symm
  · rintro ⟨i, -, hb⟩ rfl
    exact Bool.false_ne_true (BitVec.getLsbD_zero.symm.trans hb)

/-! ### Decoding the words of predicate logic (R250, R280) -/

/-- A scalar word at which no other word is aimed decodes to the instruction that the opcode map reads from it, where that is well formed and the
word is its own. -/
theorem decodeWord_of_rawScalar {i : Instr} {w : BitVec 64} (hword : encodeWord i = w) (hraw : rawScalar w Pfx.none = some i)
    (hwf : i.wf = true) : decodeWord .scalar w Pfx.none = some i := by
  have hdec : ∀ disp, rawDecode .scalar w Pfx.none disp = some i := fun _ => hraw
  rw [decodeWord, decodeSticky, hdec]
  exact if_pos ⟨hword, hwf⟩

section
variable (op : BitVec 7) (p a b : PReg) (na nb : Bool)

/-- The fields of format SP side by side, from the opcode down. -/
theorem w32_packSP : w32 (packSP op p a na b nb) =
    (op ++ p ++ a ++ BitVec.ofBool na ++ b ++ BitVec.ofBool nb ++ (0 : BitVec 11)).setWidth 64 := rfl

theorem packSP_fields :
    (w32 (packSP op p a na b nb)).extractLsb' 25 7 = op ∧ (w32 (packSP op p a na b nb)).extractLsb' 21 4 = p
    ∧ (w32 (packSP op p a na b nb)).extractLsb' 17 4 = a ∧ bitAt (w32 (packSP op p a na b nb)) 16 = na
    ∧ (w32 (packSP op p a na b nb)).extractLsb' 12 4 = b ∧ bitAt (w32 (packSP op p a na b nb)) 11 = nb := by
  -- the widths stay sums: the rewriting rules match the shape of each `++`
  simp (disch := decide) only [w32_packSP, bitAt, BitVec.extractLsb'_setWidth_of_le, BitVec.extractLsb'_append_eq_of_le,
    BitVec.extractLsb'_append_eq_of_add_le, BitVec.getLsbD_setWidth, BitVec.getLsbD_append, -Nat.reduceAdd]
  exact ⟨BitVec.extractLsb'_eq_self, BitVec.extractLsb'_eq_self, BitVec.extractLsb'_eq_self, by simp,
    BitVec.extractLsb'_eq_self, by simp⟩

theorem decodeWord_pand : decodeWord .scalar (w32 (packSP 0x34 p a na b nb)) Pfx.none = some (.pand p a na b nb) :=
  decodeWord_of_rawScalar rfl (by simp [rawScalar, packSP_fields]) rfl
theorem decodeWord_por : decodeWord .scalar (w32 (packSP 0x35 p a na b nb)) Pfx.none = some (.por p a na b nb) :=
  decodeWord_of_rawScalar rfl (by simp [rawScalar, packSP_fields]) rfl
theorem decodeWord_pxor : decodeWord .scalar (w32 (packSP 0x36 p a na b nb)) Pfx.none = some (.pxor p a na b nb) :=
  decodeWord_of_rawScalar rfl (by simp [rawScalar, packSP_fields]) rfl
theorem decodeWord_pandn : decodeWord .scalar (w32 (packSP 0x37 p a na b nb)) Pfx.none = some (.pandn p a na b nb) :=
  decodeWord_of_rawScalar rfl (by simp [rawScalar, packSP_fields]) rfl

end

/-! ### The obligations -/

/-- Settles O2: the model's quotients and remainders are the table's, and at −2^63 and −1 the quotient wraps. -/
theorem scalarDivisionResults : Obligations.ScalarDivisionResults := by
  intro s d a b x y
  refine ⟨gives_div s d a b, ?_, gives_rem s d a b, ?_, fun hx hy => ⟨?_, ?_⟩⟩
  · rw [← divU_eq]
    exact gives_divu s d a b
  · rw [← remU_eq]
    exact gives_remu s d a b
  · rw [← divS_intMin_neg_one, ← hx, ← hy]
    exact gives_div s d a b
  · rw [← remS_intMin_neg_one, ← hx, ← hy]
    exact gives_rem s d a b

/-- Settles O4: each code of CC is its relation, and the four words of predicate logic read back as their operations. -/
theorem predicateResults : Obligations.PredicateResults := by
  intro s p
  refine ⟨?_, fun a b na nb => ?_⟩
  · intro cc a b imm rel
    have hrel : ∀ x y, cmpCc cc x y = rel x y := by
      intro x y
      -- every arm of `cmpCc` becomes the relation of the same code
      rw [cmpCc, and_bne_zero_eq_any]
      simp only [beq_eq_decide_toNat, bne_eq_decide_toNat, BitVec.slt_eq_decide, BitVec.ult_eq_decide, ← decide_not,
        Int.not_lt, Nat.not_lt]
      rfl
    rw [← hrel, ← hrel]
    exact ⟨gives_cmp s a b p cc, gives_cmpi s a p cc imm⟩
  · exact ⟨gives_pand s p a b na nb, gives_por s p a b na nb, gives_pxor s p a b na nb, gives_pandn s p a b na nb,
      decodeWord_pand p a b na nb, decodeWord_por p a b na nb, decodeWord_pxor p a b na nb, decodeWord_pandn p a b na nb⟩

end Sys2Proof.Machine

/-! PROOFS. Results in flight: how they are sent, land and come back (R196, R267, R391). -/

namespace Sys2Proof.Machine

/-! ### A result is sent on its way (R267) -/

theorem Arch.evWrite_bnd (a : Arch) (t : Nat) (b : BitVec 32) :
    a.evWrite (.bnd t b) = if t < 8 then a else { a with ev := { a.ev with ba := mset 0 a.ev.ba (t - 8) b } } := rfl

/-- A write in the engine's order (R377) reaches `ev` alone. -/
theorem Arch.evWrite_eq (a : Arch) (w : Write) : a.evWrite w = { a with ev := (a.evWrite w).ev } := by
  cases w with
  | bnd t b =>
    rw [Arch.evWrite_bnd]
    split <;> rfl
  | _ => rfl

theorem Arch.foldl_evWrite_eq (ws : List Write) (a : Arch) :
    ws.foldl Arch.evWrite a = { a with ev := (ws.foldl Arch.evWrite a).ev } := by
  induction ws generalizing a with
  | nil => rfl
  | cons w ws ih =>
    rw [List.foldl_cons, ih, Arch.evWrite_eq]

theorem Ctx.send_a (x : Ctx) (slot : Slot) (lat : Nat) (ws : List Write) (arrived : Bool) :
    (x.send slot lat ws arrived).a = { x.a with ev := (x.send slot lat ws arrived).a.ev } :=
  Arch.foldl_evWrite_eq ws x.a

/-! ### The results due land, in due order (R196) -/

theorem Ctx.foldl_land1_a (ps : List Pend) (x : Ctx) :
    (ps.foldl Ctx.land1 x).a = (ps.flatMap Pend.ws).foldl Arch.write x.a := by
  induction ps generalizing x with
  | nil => rfl
  | cons p ps ih =>
    rw [List.foldl_cons, ih, List.flatMap_cons, List.foldl_append]
    rfl

theorem Ctx.landDue_a (x : Ctx) : x.landDue.a =
    ((sortPend (x.pend.filter fun p => p.due ≤ x.a.ctxtime.toNat)).flatMap Pend.ws).foldl Arch.write x.a :=
  Ctx.foldl_land1_a _ x

theorem Ctx.landDue_pend (x : Ctx) : x.landDue.pend = x.pend.filter fun p => x.a.ctxtime.toNat < p.due := rfl

/-- Nothing lands before its cycle. -/
theorem Ctx.landDue_of_none_due {x : Ctx} (h : ∀ p ∈ x.pend, x.a.ctxtime.toNat < p.due) :
    x.landDue.a = x.a ∧ x.landDue.pend = x.pend := by
  have hdue : (x.pend.filter fun p => p.due ≤ x.a.ctxtime.toNat) = [] :=
    List.filter_eq_nil_iff.mpr fun p hp => by simpa using h p hp
  refine ⟨?_, x.landDue_pend.trans (List.filter_eq_self.mpr fun p hp => by simpa using h p hp)⟩
  rw [Ctx.landDue_a, hdue]
  rfl

/-- Once every cycle has come, all land and none is held any longer. -/
theorem Ctx.landDue_of_all_due {x : Ctx} (h : ∀ p ∈ x.pend, p.due ≤ x.a.ctxtime.toNat) :
    x.landDue.a = ((sortPend x.pend).flatMap Pend.ws).foldl Arch.write x.a ∧ x.landDue.pend = [] := by
  have hdue : (x.pend.filter fun p => p.due ≤ x.a.ctxtime.toNat) = x.pend :=
    List.filter_eq_self.mpr fun p hp => by simpa using h p hp
  refine ⟨?_, x.landDue_pend.trans (List.filter_eq_nil_iff.mpr fun p hp => by simpa using h p hp)⟩
  rw [Ctx.landDue_a, hdue]

/-- Whatever the order of their issue, the result due earlier comes first. -/
theorem sortPend_pair {p q : Pend} (h : p.due < q.due) : sortPend [p, q] = [p, q] ∧ sortPend [q, p] = [p, q] := by
  have hpq : pendLe p q = true := by simp [pendLe, h]
  have hqp : pendLe q p = false := by simp [pendLe, Nat.le_of_lt h, Nat.ne_of_gt h]
  simp [sortPend, insPend, hpq, hqp]

/-! ### What the landing of a scalar and of a predicate changes (R267) -/

section
variable (a : Arch)

theorem Arch.write_s (r : Nat) (v : Word) : a.write (.s r v) = if r = 0 then a else { a with sr := mset 0 a.sr r v } := rfl

theorem Arch.write_p (r : Nat) (b : Bool) : a.write (.p r b) =
    if r = 0 then a else { a with pr := if b then a.pr ||| ((1 : BitVec 16) <<< r) else a.pr &&& ~~~((1 : BitVec 16) <<< r) } := rfl

theorem Arch.write_s_eq (r : Nat) (v : Word) : a.write (.s r v) = { a with sr := (a.write (.s r v)).sr } := by
  rw [Arch.write_s]
  split <;> rfl

theorem Arch.write_p_eq (r : Nat) (b : Bool) : a.write (.p r b) = { a with pr := (a.write (.p r b)).pr } := by
  rw [Arch.write_p]
  split <;> rfl

theorem Arch.rdS_write_s (r : Reg) (v : Word) (j : Nat) :
    (a.write (.s r.toNat v)).rdS j = if j = r.toNat ∧ r ≠ 0 then v else a.rdS j := by
  rw [Arch.write_s]
  by_cases hr : r = 0
  · subst hr
    simp
  · have hr' : r.toNat ≠ 0 := BitVec.toNat_ne.mp hr
    rw [if_neg hr', Arch.rdS, mget_mset]
    by_cases hj : j = r.toNat
    · rw [if_neg (hj ▸ hr'), if_pos hj, if_pos ⟨hj, hr⟩]
    · rw [if_neg hj, if_neg (not_and_of_not_left _ hj)]
      rfl

/-- One bit of the predicates replaced. -/
theorem bitAt_replace (w : BitVec 16) {r : Nat} (hr : r < 16) (b : Bool) (j : Nat) :
    bitAt (if b then w ||| ((1 : BitVec 16) <<< r) else w &&& ~~~((1 : BitVec 16) <<< r)) j = if j = r then b else bitAt w j := by
  have hbit : ∀ i, ((1 : BitVec 16) <<< r).getLsbD i = decide (r = i) := fun i => by
    change (1#16 <<< r).getLsbD i = _
    rw [← BitVec.twoPow_eq, BitVec.getLsbD_twoPow, decide_eq_true hr, Bool.true_and]
  cases b with
  | false =>
    have hlow : w.getLsbD j = true → j < 16 := BitVec.lt_of_getLsbD
    change (w &&& ~~~_).getLsbD j = _
    rw [BitVec.getLsbD_and, BitVec.getLsbD_not, hbit]
    by_cases hj : j = r
    · simp [hj]
    · simpa [hj, Ne.symm hj, bitAt] using hlow
  | true =>
    change (w ||| _).getLsbD j = _
    rw [BitVec.getLsbD_or, hbit]
    by_cases hj : j = r
    · simp [hj]
    · simp [hj, Ne.symm hj, bitAt]

theorem Arch.rdP_write_p (p : PReg) (b : Bool) (j : Nat) :
    (a.write (.p p.toNat b)).rdP j = if j = p.toNat ∧ p ≠ 0 then b else a.rdP j := by
  rw [Arch.write_p]
  by_cases hp : p = 0
  · subst hp
    simp
  · have hp' : p.toNat ≠ 0 := BitVec.toNat_ne.mp hp
    rw [if_neg hp', Arch.rdP, bitAt_replace a.pr p.isLt]
    by_cases hj : j = p.toNat
    · rw [if_pos hj, if_pos ⟨hj, hp⟩, decide_eq_false (hj ▸ hp'), Bool.false_or]
    · rw [if_neg hj, if_neg (not_and_of_not_left _ hj)]
      rfl

end

/-! ### A rollback goes back to the checkpoint (R391, R404) -/

theorem Ctx.rollback_ctxtime (x : Ctx) : x.rollback.a.ctxtime = x.ck.ctxtime := rfl
theorem Ctx.rollback_pend (x : Ctx) : x.rollback.pend = x.ckPend := rfl
theorem Ctx.checkpoint_ck (x : Ctx) : x.checkpoint.ck = x.a := rfl
theorem Ctx.checkpoint_ckPend (x : Ctx) : x.checkpoint.ckPend = x.pend := rfl

/-! ### The obligation -/

/-- Settles O53: what is sent is held with its cycle, the results due land sorted by it, and a rollback takes back the list of its checkpoint. -/
theorem resultsLand : Obligations.ResultsLand := by
  refine ⟨fun s lat ws => ?_, fun x p q => ?_, fun a r v p b => ?_, fun x y hck hpend => ?_⟩
  · refine ⟨?_, ?_, rfl, rfl, fun m e => s.ctx_land_ne lat ws⟩
    · rw [State.cx_land]
      rfl
    · rw [State.cx_land]
      exact Ctx.send_a ..
  · refine ⟨fun h => ?_, fun h hp => ?_, fun h hp => ?_, fun h hpq hq => ?_⟩
    · exact (Ctx.landDue_of_none_due (by simp [h])).1
    · have hland := Ctx.landDue_of_none_due (x := x) (by simpa [h] using hp)
      rwa [h] at hland
    · have hland := Ctx.landDue_of_all_due (x := x) (by simpa [h] using hp)
      simpa [h, sortPend, insPend] using hland
    · have hsort : sortPend x.pend = [p, q] := by
        rcases h with h | h
        · exact h ▸ (sortPend_pair hpq).1
        · exact h ▸ (sortPend_pair hpq).2
      have hall : ∀ r ∈ x.pend, r.due ≤ x.a.ctxtime.toNat := by
        have hp := Nat.le_trans (Nat.le_of_lt hpq) hq
        rcases h with h | h <;> simp [h, hp, hq]
      simpa [hsort] using Ctx.landDue_of_all_due hall
  · exact ⟨a.rdS_write_s r v, a.rdP_write_p p b, a.write_s_eq _ v, a.write_p_eq _ b⟩
  · rw [Ctx.rollback_pend, hpend, Ctx.checkpoint_ckPend, Ctx.rollback_ctxtime, hck, Ctx.checkpoint_ck]
    exact ⟨rfl, rfl⟩

end Sys2Proof.Machine
